-- ==== Sys2Proof/Word.lean ====
section
/-!
DEFINITION. The bit widths of the machine (spec/00_scope.md R6, R7): bytes, 16-bit words, 12-bit
addresses, and the two four-bit numbers that name a register or a key.
Everything is unsigned (R7); no signed quantity exists.
-/

namespace Sys2Proof

/-- An 8-bit value: a general register, a timer, a memory byte, the immediate `nn` (R6, R81). -/
abbrev Byte := BitVec 8

/-- A 16-bit value: an opcode, `pc`, `I`, a stack cell (R6, R80). -/
abbrev Word := BitVec 16

/-- The 12-bit address field `nnn` (R81). -/
abbrev Addr := BitVec 12

/-- The number of a general register, "always in 0–15 by construction (4-bit fields)" (R20). -/
abbrev Reg := Fin 16

/-- The number of a key of the hexadecimal keypad, 0..15 (R6, R32). -/
abbrev Key := Fin 16

/-- The flag register VF is register 15 (R20, R22). -/
abbrev VF : Reg := 15

end Sys2Proof
end

