-- ==== Sys2Proof/Syntax.lean ====
section
/-!
DEFINITION. The instructions: one constructor per row of spec/opcode_table.json, 34 in all, in the
table's order (spec/30_encoding.md R95). Operands are the fields of R81 that the pattern of the row
uses; immediates are unsigned (R83).
-/

namespace Sys2Proof

/-- The 34 encodable operations (R85 to R90, R95). Each docstring gives the pattern and the rule. -/
inductive Instr where
  /-- `00E0` CLS, clear the display (R175). -/
  | cls
  /-- `00EE` RET, return from subroutine (R110). -/
  | ret
  /-- `1nnn` JP nnn (R111). -/
  | jpNnn (nnn : Addr)
  /-- `2nnn` CALL nnn (R112). -/
  | callNnn (nnn : Addr)
  /-- `3xnn` SE Vx, nn (R113). -/
  | seVxNn (x : Reg) (nn : Byte)
  /-- `4xnn` SNE Vx, nn (R114). -/
  | sneVxNn (x : Reg) (nn : Byte)
  /-- `5xy0` SE Vx, Vy (R115). -/
  | seVxVy (x y : Reg)
  /-- `6xnn` LD Vx, nn (R130). -/
  | ldVxNn (x : Reg) (nn : Byte)
  /-- `7xnn` ADD Vx, nn (R131). -/
  | addVxNn (x : Reg) (nn : Byte)
  /-- `8xy0` LD Vx, Vy (R132). -/
  | ldVxVy (x y : Reg)
  /-- `8xy1` OR Vx, Vy (R133). -/
  | orVxVy (x y : Reg)
  /-- `8xy2` AND Vx, Vy (R134). -/
  | andVxVy (x y : Reg)
  /-- `8xy3` XOR Vx, Vy (R135). -/
  | xorVxVy (x y : Reg)
  /-- `8xy4` ADD Vx, Vy with carry (R136). -/
  | addVxVy (x y : Reg)
  /-- `8xy5` SUB Vx, Vy with borrow flag (R137). -/
  | subVxVy (x y : Reg)
  /-- `8xy6` SHR Vx; `y` is decoded and selects nothing (R138, R93). -/
  | shrVx (x y : Reg)
  /-- `8xy7` SUBN Vx, Vy with borrow flag (R139). -/
  | subnVxVy (x y : Reg)
  /-- `8xyE` SHL Vx; `y` is decoded and selects nothing (R140, R93). -/
  | shlVx (x y : Reg)
  /-- `9xy0` SNE Vx, Vy (R116). -/
  | sneVxVy (x y : Reg)
  /-- `Annn` LD I, nnn (R150). -/
  | ldINnn (nnn : Addr)
  /-- `Bnnn` JP V0, nnn (R117). -/
  | jpV0Nnn (nnn : Addr)
  /-- `Cxnn` RND Vx, nn (R176). -/
  | rndVxNn (x : Reg) (nn : Byte)
  /-- `Dxyn` DRW Vx, Vy, n; `n` is a row count 0..15 (R177, R83). -/
  | drwVxVyN (x y : Reg) (n : Nat)
  /-- `Ex9E` SKP Vx (R178). -/
  | skpVx (x : Reg)
  /-- `ExA1` SKNP Vx (R179). -/
  | sknpVx (x : Reg)
  /-- `Fx07` LD Vx, DT (R180). -/
  | ldVxDt (x : Reg)
  /-- `Fx0A` LD Vx, K (R181). -/
  | ldVxK (x : Reg)
  /-- `Fx15` LD DT, Vx (R182). -/
  | ldDtVx (x : Reg)
  /-- `Fx18` LD ST, Vx (R183). -/
  | ldStVx (x : Reg)
  /-- `Fx1E` ADD I, Vx (R151). -/
  | addIVx (x : Reg)
  /-- `Fx29` LD F, Vx (R152). -/
  | ldFVx (x : Reg)
  /-- `Fx33` LD B, Vx (R153). -/
  | ldBVx (x : Reg)
  /-- `Fx55` LD [I], Vx: store V0..Vx (R154). -/
  | ldMemVx (x : Reg)
  /-- `Fx65` LD Vx, [I]: load V0..Vx (R155). -/
  | ldVxMem (x : Reg)
  deriving DecidableEq, Repr

end Sys2Proof
end

