-- ==== Sys2Proof/WellFormed.lean ====
section
/-!
DEFINITION. Which instruction terms stand for a 16-bit word. Register numbers, immediates and addresses
carry their width in their type (spec/00_scope.md R20: "no separate bounds check"); the row count `n` of
Dxyn is a number of rows, and the one thing left to check is that it fits its 4-bit field
(spec/30_encoding.md R81, R83).
-/

namespace Sys2Proof

/-- The check: `n` of Dxyn is "a row count 0..15" (R83). Every other term stands for a word. -/
def Instr.wf : Instr → Bool
  | .drwVxVyN _ _ n => decide (n ≤ 15)
  | .cls | .ret | .jpNnn _ | .callNnn _ | .seVxNn _ _ | .sneVxNn _ _ | .seVxVy _ _ => true
  | .ldVxNn _ _ | .addVxNn _ _ | .ldVxVy _ _ | .orVxVy _ _ | .andVxVy _ _ | .xorVxVy _ _ => true
  | .addVxVy _ _ | .subVxVy _ _ | .shrVx _ _ | .subnVxVy _ _ | .shlVx _ _ | .sneVxVy _ _ => true
  | .ldINnn _ | .jpV0Nnn _ | .rndVxNn _ _ | .skpVx _ | .sknpVx _ | .ldVxDt _ | .ldVxK _ => true
  | .ldDtVx _ | .ldStVx _ | .addIVx _ | .ldFVx _ | .ldBVx _ | .ldMemVx _ | .ldVxMem _ => true

end Sys2Proof
end

