-- ==== Sys2Proof/Decode.lean ====
section
/-!
DEFINITION. The decoder, total on every word and every byte string, and after it the encoder, both from
the encoding tables of spec/30_encoding.md (R80 to R91, R95). Reserved encodings are rejected by name; none
falls through to a neighbour (R91, R92).
-/

namespace Sys2Proof

/-! ### The fields of an opcode (R81) -/

/-- `op`, bits 15:12, "the primary dispatch tag" (R81). -/
def opField (w : Word) : BitVec 4 := w.extractLsb' 12 4

/-- `x`, bits 11:8, "a register index 0–15" (R81). -/
def xField (w : Word) : Reg := (w.extractLsb' 8 4).toFin

/-- `y`, bits 7:4, "a register index 0–15" (R81). -/
def yField (w : Word) : Reg := (w.extractLsb' 4 4).toFin

/-- `n`, bits 3:0, "a small immediate/count" (R81). -/
def nField (w : Word) : BitVec 4 := w.extractLsb' 0 4

/-- `nn`, bits 7:0, "an immediate byte" (R81). -/
def nnField (w : Word) : Byte := w.extractLsb' 0 8

/-- `nnn`, bits 11:0, "an address" (R81). -/
def nnnField (w : Word) : Addr := w.extractLsb' 0 12

/-! ### Decoding -/

/-- Why bytes are no instruction. -/
inductive DecodeError where
  /-- The word is outside the defined table (R91); the core raises UndefinedOpcode with it (R201). -/
  | undefinedOpcode (opcode : Word)
  /-- Fewer than the two bytes every instruction has (R80). Raised by `decodeBytes` only: the core's
  fetch always supplies two bytes or faults before decoding (R84). -/
  | truncated
  deriving DecidableEq, Repr

/-- Tag 0x0: the secondary field is the whole of `nnn`, matched exactly (R86, D3). -/
def decodeTag0 (w : Word) : Except DecodeError Instr :=
  if nnnField w = 0x0E0 then .ok .cls
  else if nnnField w = 0x0EE then .ok .ret
  else .error (.undefinedOpcode w)

/-- Tag 0x8: the secondary field is `n` (R87); 8xy6 and 8xyE accept every `y` (R93). -/
def decodeTag8 (w : Word) : Except DecodeError Instr :=
  match nField w with
  | 0x0#4 => .ok (.ldVxVy (xField w) (yField w))
  | 0x1#4 => .ok (.orVxVy (xField w) (yField w))
  | 0x2#4 => .ok (.andVxVy (xField w) (yField w))
  | 0x3#4 => .ok (.xorVxVy (xField w) (yField w))
  | 0x4#4 => .ok (.addVxVy (xField w) (yField w))
  | 0x5#4 => .ok (.subVxVy (xField w) (yField w))
  | 0x6#4 => .ok (.shrVx (xField w) (yField w))
  | 0x7#4 => .ok (.subnVxVy (xField w) (yField w))
  | 0xE#4 => .ok (.shlVx (xField w) (yField w))
  | _ => .error (.undefinedOpcode w)

/-- Tag 0xE: the secondary field is `nn` (R88). -/
def decodeTagE (w : Word) : Except DecodeError Instr :=
  match nnField w with
  | 0x9E#8 => .ok (.skpVx (xField w))
  | 0xA1#8 => .ok (.sknpVx (xField w))
  | _ => .error (.undefinedOpcode w)

/-- Tag 0xF: the secondary field is `nn` (R89). -/
def decodeTagF (w : Word) : Except DecodeError Instr :=
  match nnField w with
  | 0x07#8 => .ok (.ldVxDt (xField w))
  | 0x0A#8 => .ok (.ldVxK (xField w))
  | 0x15#8 => .ok (.ldDtVx (xField w))
  | 0x18#8 => .ok (.ldStVx (xField w))
  | 0x1E#8 => .ok (.addIVx (xField w))
  | 0x29#8 => .ok (.ldFVx (xField w))
  | 0x33#8 => .ok (.ldBVx (xField w))
  | 0x55#8 => .ok (.ldMemVx (xField w))
  | 0x65#8 => .ok (.ldVxMem (xField w))
  | _ => .error (.undefinedOpcode w)

/-- The instruction a word stands for, by the two-level dispatch of R85: the primary tag first, then a
secondary field for tags 0x0, 0x5, 0x8, 0x9, 0xE and 0xF (R86 to R90). The last arm is tag 0xF, the one
4-bit value no arm above names. -/
def decode (w : Word) : Except DecodeError Instr :=
  match opField w with
  | 0x0#4 => decodeTag0 w
  | 0x1#4 => .ok (.jpNnn (nnnField w))
  | 0x2#4 => .ok (.callNnn (nnnField w))
  | 0x3#4 => .ok (.seVxNn (xField w) (nnField w))
  | 0x4#4 => .ok (.sneVxNn (xField w) (nnField w))
  | 0x5#4 => if nField w = 0 then .ok (.seVxVy (xField w) (yField w)) else .error (.undefinedOpcode w)
  | 0x6#4 => .ok (.ldVxNn (xField w) (nnField w))
  | 0x7#4 => .ok (.addVxNn (xField w) (nnField w))
  | 0x8#4 => decodeTag8 w
  | 0x9#4 => if nField w = 0 then .ok (.sneVxVy (xField w) (yField w)) else .error (.undefinedOpcode w)
  | 0xA#4 => .ok (.ldINnn (nnnField w))
  | 0xB#4 => .ok (.jpV0Nnn (nnnField w))
  | 0xC#4 => .ok (.rndVxNn (xField w) (nnField w))
  | 0xD#4 => .ok (.drwVxVyN (xField w) (yField w) (nField w).toNat)
  | 0xE#4 => decodeTagE w
  | _ => decodeTagF w

/-- Two bytes as a word, the byte at the lower address in bits 15:8 (R54). -/
def wordOfBytes (hi lo : Byte) : Word := hi ++ lo

/-- The byte of a word that lies at the lower address (R54). -/
def highByte (w : Word) : Byte := w.extractLsb' 8 8

/-- The byte of a word that lies at the higher address (R54). -/
def lowByte (w : Word) : Byte := w.extractLsb' 0 8

/-- The first instruction of a byte string and the bytes after it: every instruction is two bytes,
big-endian (R80). -/
def decodeBytes : List Byte → Except DecodeError (Instr × List Byte)
  | hi :: lo :: rest =>
    match decode (wordOfBytes hi lo) with
    | .ok i => .ok (i, rest)
    | .error e => .error e
  | [_] => .error .truncated
  | [] => .error .truncated

/-! ### Encoding -/

/-- Format XYN and XYS: `op ++ x ++ y ++ n` (R81, R82). -/
def formatXYN (op : BitVec 4) (x y : Reg) (n : BitVec 4) : Word :=
  op ++ (BitVec.ofFin x : BitVec 4) ++ (BitVec.ofFin y : BitVec 4) ++ n

/-- Format XNN and XSS: `op ++ x ++ nn` (R81, R82). -/
def formatXNN (op : BitVec 4) (x : Reg) (nn : Byte) : Word :=
  op ++ (BitVec.ofFin x : BitVec 4) ++ nn

/-- Format NNN and FIX: `op ++ nnn` (R81, R82). -/
def formatNNN (op : BitVec 4) (nnn : Addr) : Word := op ++ nnn

/-- The word of an instruction, from the pattern column of R95. In an ill-formed Dxyn the row count is
reduced to the four bits of its field. -/
def encode : Instr → Word
  | .cls => formatNNN 0x0 0x0E0
  | .ret => formatNNN 0x0 0x0EE
  | .jpNnn nnn => formatNNN 0x1 nnn
  | .callNnn nnn => formatNNN 0x2 nnn
  | .seVxNn x nn => formatXNN 0x3 x nn
  | .sneVxNn x nn => formatXNN 0x4 x nn
  | .seVxVy x y => formatXYN 0x5 x y 0x0
  | .ldVxNn x nn => formatXNN 0x6 x nn
  | .addVxNn x nn => formatXNN 0x7 x nn
  | .ldVxVy x y => formatXYN 0x8 x y 0x0
  | .orVxVy x y => formatXYN 0x8 x y 0x1
  | .andVxVy x y => formatXYN 0x8 x y 0x2
  | .xorVxVy x y => formatXYN 0x8 x y 0x3
  | .addVxVy x y => formatXYN 0x8 x y 0x4
  | .subVxVy x y => formatXYN 0x8 x y 0x5
  | .shrVx x y => formatXYN 0x8 x y 0x6
  | .subnVxVy x y => formatXYN 0x8 x y 0x7
  | .shlVx x y => formatXYN 0x8 x y 0xE
  | .sneVxVy x y => formatXYN 0x9 x y 0x0
  | .ldINnn nnn => formatNNN 0xA nnn
  | .jpV0Nnn nnn => formatNNN 0xB nnn
  | .rndVxNn x nn => formatXNN 0xC x nn
  | .drwVxVyN x y n => formatXYN 0xD x y (BitVec.ofNat 4 n)
  | .skpVx x => formatXNN 0xE x 0x9E
  | .sknpVx x => formatXNN 0xE x 0xA1
  | .ldVxDt x => formatXNN 0xF x 0x07
  | .ldVxK x => formatXNN 0xF x 0x0A
  | .ldDtVx x => formatXNN 0xF x 0x15
  | .ldStVx x => formatXNN 0xF x 0x18
  | .addIVx x => formatXNN 0xF x 0x1E
  | .ldFVx x => formatXNN 0xF x 0x29
  | .ldBVx x => formatXNN 0xF x 0x33
  | .ldMemVx x => formatXNN 0xF x 0x55
  | .ldVxMem x => formatXNN 0xF x 0x65

/-- The two bytes of an instruction as memory holds them, high byte first (R54, R80). -/
def encodeBytes (i : Instr) : List Byte := [highByte (encode i), lowByte (encode i)]

/-! ### The opcode table as the spec prints it -/

/-- A row of spec/opcode_table.json: a word `w` is of the row when `w &&& mask = pattern`. -/
structure OpcodeRow where
  mnemonic : String
  pattern : Word
  mask : Word
  deriving DecidableEq, Repr

/-- Rows of tags 0x0 to 0x7 (spec/opcode_table.json; R85, R86, R90). -/
def opcodeRowsLow : List OpcodeRow :=
  [⟨"CLS", 0x00E0, 0xFFFF⟩, ⟨"RET", 0x00EE, 0xFFFF⟩, ⟨"JP_nnn", 0x1000, 0xF000⟩,
   ⟨"CALL_nnn", 0x2000, 0xF000⟩, ⟨"SE_Vx__nn", 0x3000, 0xF000⟩, ⟨"SNE_Vx__nn", 0x4000, 0xF000⟩,
   ⟨"SE_Vx__Vy", 0x5000, 0xF00F⟩, ⟨"LD_Vx__nn", 0x6000, 0xF000⟩, ⟨"ADD_Vx__nn", 0x7000, 0xF000⟩]

/-- Rows of tags 0x8 and 0x9 (spec/opcode_table.json; R87, R90). -/
def opcodeRowsTag8 : List OpcodeRow :=
  [⟨"LD_Vx__Vy", 0x8000, 0xF00F⟩, ⟨"OR_Vx__Vy", 0x8001, 0xF00F⟩, ⟨"AND_Vx__Vy", 0x8002, 0xF00F⟩,
   ⟨"XOR_Vx__Vy", 0x8003, 0xF00F⟩, ⟨"ADD_Vx__Vy", 0x8004, 0xF00F⟩, ⟨"SUB_Vx__Vy", 0x8005, 0xF00F⟩,
   ⟨"SHR_Vx", 0x8006, 0xF00F⟩, ⟨"SUBN_Vx__Vy", 0x8007, 0xF00F⟩, ⟨"SHL_Vx", 0x800E, 0xF00F⟩,
   ⟨"SNE_Vx__Vy", 0x9000, 0xF00F⟩]

/-- Rows of tags 0xA to 0xE (spec/opcode_table.json; R85, R88). -/
def opcodeRowsHigh : List OpcodeRow :=
  [⟨"LD_I__nnn", 0xA000, 0xF000⟩, ⟨"JP_V0__nnn", 0xB000, 0xF000⟩, ⟨"RND_Vx__nn", 0xC000, 0xF000⟩,
   ⟨"DRW_Vx__Vy__n", 0xD000, 0xF000⟩, ⟨"SKP_Vx", 0xE09E, 0xF0FF⟩, ⟨"SKNP_Vx", 0xE0A1, 0xF0FF⟩]

/-- Rows of tag 0xF (spec/opcode_table.json; R89). -/
def opcodeRowsTagF : List OpcodeRow :=
  [⟨"LD_Vx__DT", 0xF007, 0xF0FF⟩, ⟨"LD_Vx__K", 0xF00A, 0xF0FF⟩, ⟨"LD_DT__Vx", 0xF015, 0xF0FF⟩,
   ⟨"LD_ST__Vx", 0xF018, 0xF0FF⟩, ⟨"ADD_I__Vx", 0xF01E, 0xF0FF⟩, ⟨"LD_F__Vx", 0xF029, 0xF0FF⟩,
   ⟨"LD_B__Vx", 0xF033, 0xF0FF⟩, ⟨"LD__I___Vx", 0xF055, 0xF0FF⟩, ⟨"LD_Vx___I", 0xF065, 0xF0FF⟩]

/-- The 34 rows. Claims compare the decoder with them; the decoder itself does not use them. -/
def opcodeTable : List OpcodeRow := opcodeRowsLow ++ opcodeRowsTag8 ++ opcodeRowsHigh ++ opcodeRowsTagF

/-- The mnemonic of the row a constructor stands for, as spec/opcode_table.json spells it (R95, R96). -/
def Instr.mnemonic : Instr → String
  | .cls => "CLS"
  | .ret => "RET"
  | .jpNnn _ => "JP_nnn"
  | .callNnn _ => "CALL_nnn"
  | .seVxNn _ _ => "SE_Vx__nn"
  | .sneVxNn _ _ => "SNE_Vx__nn"
  | .seVxVy _ _ => "SE_Vx__Vy"
  | .ldVxNn _ _ => "LD_Vx__nn"
  | .addVxNn _ _ => "ADD_Vx__nn"
  | .ldVxVy _ _ => "LD_Vx__Vy"
  | .orVxVy _ _ => "OR_Vx__Vy"
  | .andVxVy _ _ => "AND_Vx__Vy"
  | .xorVxVy _ _ => "XOR_Vx__Vy"
  | .addVxVy _ _ => "ADD_Vx__Vy"
  | .subVxVy _ _ => "SUB_Vx__Vy"
  | .shrVx _ _ => "SHR_Vx"
  | .subnVxVy _ _ => "SUBN_Vx__Vy"
  | .shlVx _ _ => "SHL_Vx"
  | .sneVxVy _ _ => "SNE_Vx__Vy"
  | .ldINnn _ => "LD_I__nnn"
  | .jpV0Nnn _ => "JP_V0__nnn"
  | .rndVxNn _ _ => "RND_Vx__nn"
  | .drwVxVyN _ _ _ => "DRW_Vx__Vy__n"
  | .skpVx _ => "SKP_Vx"
  | .sknpVx _ => "SKNP_Vx"
  | .ldVxDt _ => "LD_Vx__DT"
  | .ldVxK _ => "LD_Vx__K"
  | .ldDtVx _ => "LD_DT__Vx"
  | .ldStVx _ => "LD_ST__Vx"
  | .addIVx _ => "ADD_I__Vx"
  | .ldFVx _ => "LD_F__Vx"
  | .ldBVx _ => "LD_B__Vx"
  | .ldMemVx _ => "LD__I___Vx"
  | .ldVxMem _ => "LD_Vx___I"

/-- Whether a word is of a row. -/
def OpcodeRow.covers (r : OpcodeRow) (w : Word) : Bool := w &&& r.mask == r.pattern

/-! ### The host's view of the decoder -/

/-- The instruction the decoder reads from the table word `w` of `nbits` bits (bits of `w` from `nbits`
up are 0). The one length is 16 bits (R80), so a number with a bit above bit 15 is no instruction; the
two bytes go to the decoder as the hardware stores them, high byte first (R54). -/
def decodeTableWord (nbits w : Nat) : Option Instr :=
  if w % 2 ^ nbits < 2 ^ 16 then
    match decodeBytes [highByte (BitVec.ofNat 16 (w % 2 ^ nbits)), lowByte (BitVec.ofNat 16 (w % 2 ^ nbits))] with
    | .ok (i, _) => some i
    | .error _ => none
  else none

end Sys2Proof
end

