-- ==== Sys2Proof/Config.lean ====
section
/-!
DEFINITION. What is fixed for the machine (spec/00_scope.md R6), and the values the spec leaves open:
the place of the font (`FONT_BASE`, OPEN, D22) and the bytes of the random source (a draw, D24). The
open values are opaque, so no proof can see what they are.
-/

namespace Sys2Proof.Config

/-- Memory holds 4096 bytes, addresses 0x000..0xFFF (R30, R50). -/
abbrev memSize : Nat := 4096

/-- The program origin and the reset value of `pc` (R23, R51). -/
abbrev programOrigin : Nat := 0x200

/-- The longest ROM image, 4096 - 512 bytes (R6, R231). -/
abbrev maxRom : Nat := 3584

/-- The framebuffer is 64 pixels wide (R6, R31; D19, general knowledge the spec imports). -/
abbrev fbW : Nat := 64

/-- The framebuffer is 32 pixels high (R6, R31; D19, general knowledge the spec imports). -/
abbrev fbH : Nat := 32

/-- `FONT_BASE`, OPEN: any address with `FONT_BASE + 80 <= 0x200`, that is 0..432 (R6, R62, D22).
A constant with no body: claims hold for every admissible base. Log entry 3. -/
opaque fontBaseIndex : Fin 433

/-- The address of glyph 0 (R62). -/
def fontBase : Nat := fontBaseIndex.val

/-- The one constraint the spec puts on `FONT_BASE` (R6, R62). -/
theorem fontBase_add_80_le : fontBase + 80 ≤ 0x200 := by
  have h := fontBaseIndex.isLt
  unfold fontBase
  omega

/-- The k-th byte the external random source hands out: a draw under no law (R33, R174, D24).
A constant with no body, applied to the counter `State.draws`: each call is a fresh draw.
Log entry 4. -/
opaque randomByte : Nat → Byte

end Sys2Proof.Config
end

