-- ==== Sys2Proof/Machine/State.lean ====
section
/-!
DEFINITION. The state of the machine as plain data (spec/10_state.md R20 to R34), the reasons a step can
stop, and the state after reset.
-/

namespace Sys2Proof.Machine

/-- The five faults of spec/60_exceptions.md R200. Raising one writes the fault record (R206); it is an
exception the machine takes, not a stop of the model. -/
inductive FaultKind where
  /-- Code 1, raised at decode of any word outside the table (R201). -/
  | undefinedOpcode
  /-- Code 2, raised by 2nnn when `SP = 16` (R202). -/
  | stackOverflow
  /-- Code 3, raised by 00EE when `SP = 0` (R203). -/
  | stackUnderflow
  /-- Code 4, raised by the fetch and by Dxyn, Fx33, Fx55, Fx65 when an address exceeds 0xFFF (R204). -/
  | addressOutOfRange
  /-- Code 5, raised by Ex9E and ExA1 when `V[x] > 15` (R205). -/
  | keyIndexOutOfRange
  deriving DecidableEq, Repr

/-- The fault record FAULT (R29): `kind` is `none` for code 0, no fault since reset. -/
structure FaultRecord where
  kind : Option FaultKind
  opcode : Word
  pc : Word
  deriving DecidableEq, Repr

/-- The record after reset: kind 0, opcode 0, pc 0 (R34). -/
def FaultRecord.clear : FaultRecord := ⟨none, 0, 0⟩

/-- Why a step stops without a next state. -/
inductive Fault where
  /-- Raised by `step` alone, when the fault record is already set: `execute` then changes nothing and
  returns the same `Fault(FAULT)` (R84 step 1, R208). It carries the record it returns. Safe: the spec
  itself says that no further step happens (spec/93_implementation_defined.md U15). -/
  | latched (record : FaultRecord)
  deriving DecidableEq, Repr

/-- Why an instruction is refused. -/
inductive Refusal where
  /-- Raised by an arm of `exec` for an instruction that has no meaning yet. Safe. No arm of this model
  raises it. -/
  | notModelled (mnemonic : String)
  deriving DecidableEq, Repr

/-- Memory: the bytes that differ from what an unlisted address reads as, in rising order of address
(R30; the form is `Memory.wf` of Machine/Ops.lean, what an unlisted address reads as is `resetByte`). -/
abbrev Memory := List Host.Cell

/-- The framebuffer `FB[py][px]`: `fbH` rows of `fbW` pixels, row 0 at the top, column 0 at the left (R31). -/
abbrev Framebuffer := Vector (Vector Bool Config.fbW) Config.fbH

/-- Everything the spec gives the machine (spec/10_state.md, table 1), and the model's own counter
`draws`. -/
structure State where
  /-- General registers `V[0]`..`V[15]` (R20); `V[15]` is VF (R22). -/
  v : Vector Byte 16
  /-- Index register `I` (R25). -/
  i : Word
  /-- Program counter (R23). -/
  pc : Word
  /-- Call stack cells `STACK[0]`..`STACK[15]`, not part of memory (R26). -/
  stack : Vector Word 16
  /-- Stack pointer: the count of live entries, 0..16 (R26, D10). -/
  sp : Fin 17
  /-- Delay timer (R27). -/
  dt : Byte
  /-- Sound timer (R27). -/
  st : Byte
  /-- Await-key flag AWAIT (R28). -/
  await : Bool
  /-- Fault record FAULT (R29). -/
  fault : FaultRecord
  /-- Memory `MEM[0]`..`MEM[4095]` (R30). -/
  mem : Memory
  /-- Framebuffer pixels (R31). -/
  fb : Framebuffer
  /-- Key levels `KEYS[0]`..`KEYS[15]`, true when the key is down (R32). -/
  keys : Vector Bool 16
  /-- Pending key-press event KEYLATCH (R32). -/
  keyLatch : Option Key
  /-- The MODEL's own: how many bytes the random source has handed out; it selects the next draw
  (R33, R174; log entry 4). -/
  draws : Nat
  deriving DecidableEq, Repr

/-- A framebuffer with every pixel 0 (R34, R170). -/
def Framebuffer.blank : Framebuffer := Vector.replicate Config.fbH (Vector.replicate Config.fbW false)

/-- The state after reset (R34). Memory lists nothing: an unlisted address reads as its reset content,
the font or zero. `keys` is not set by reset (R34); at power-on the model takes every key up
(DESIGN CHOICE, log entry 5), and `draws` starts at 0 (DESIGN CHOICE, log entry 4). -/
def State.reset : State where
  v := Vector.replicate 16 0
  i := 0
  pc := 0x0200
  stack := Vector.replicate 16 0
  sp := 0
  dt := 0
  st := 0
  await := false
  fault := FaultRecord.clear
  mem := []
  fb := Framebuffer.blank
  keys := Vector.replicate 16 false
  keyLatch := none
  draws := 0

end Sys2Proof.Machine
end

