-- ==== Sys2Proof/Machine/Ops.lean ====
section
/-!
DEFINITION. The named operations every meaning is written over: memory, registers, program counter, call
stack, taking a fault, the peripheral primitives (spec/00_scope.md R8; spec/20_memory.md;
spec/60_exceptions.md R206; spec/43_peripheral_io.md R170 to R174).
-/

namespace Sys2Proof.Machine

/-- What an instruction answers. -/
abbrev Result := Host.Outcome State Fault Refusal

/-! ### The font table (R62) -/

/-- Glyphs 0 to 7, five rows each, pixels in bits 7:4 (R62). -/
def glyphs0to7 : List Byte :=
  [0xF0, 0x90, 0x90, 0x90, 0xF0] ++ [0x20, 0x60, 0x20, 0x20, 0x70] ++
  [0xF0, 0x10, 0xF0, 0x80, 0xF0] ++ [0xF0, 0x10, 0xF0, 0x10, 0xF0] ++
  [0x90, 0x90, 0xF0, 0x10, 0x10] ++ [0xF0, 0x80, 0xF0, 0x10, 0xF0] ++
  [0xF0, 0x80, 0xF0, 0x90, 0xF0] ++ [0xF0, 0x10, 0x20, 0x40, 0x40]

/-- Glyphs 8 to F (R62). -/
def glyphs8toF : List Byte :=
  [0xF0, 0x90, 0xF0, 0x90, 0xF0] ++ [0xF0, 0x90, 0xF0, 0x10, 0xF0] ++
  [0xF0, 0x90, 0xF0, 0x90, 0x90] ++ [0xE0, 0x90, 0xE0, 0x90, 0xE0] ++
  [0xF0, 0x80, 0x80, 0x80, 0xF0] ++ [0xE0, 0x90, 0x90, 0x90, 0xE0] ++
  [0xF0, 0x80, 0xF0, 0x80, 0xF0] ++ [0xF0, 0x80, 0xF0, 0x80, 0x80]

/-- `FONT`: `FONT[5*d + r]` is byte r of glyph d (R62). -/
def font : List Byte := glyphs0to7 ++ glyphs8toF

/-! ### Memory (R30, R50 to R63) -/

/-- What an address holds after reset, and so what an unlisted address reads as (R34): the font at
`FONT_BASE`, zero elsewhere. The font ends at or below 0x200 (R6), so the first test changes nothing; it
lets a program's bytes be computed without knowing `FONT_BASE`. -/
def resetByte (a : Nat) : Byte :=
  if Config.programOrigin ≤ a then 0
  else if Config.fontBase ≤ a ∧ a < Config.fontBase + 80 then font.getD (a - Config.fontBase) 0
  else 0

/-- Every listed address lies above `a` (for the canonical form). -/
def Memory.above (a : Nat) : Memory → Bool
  | [] => true
  | (b, _) :: m => decide (a < b) && Memory.above a m

/-- The canonical form of memory: addresses strictly rising, each below 4096, no entry equal to what an
unlisted address reads as. -/
def Memory.wf : Memory → Bool
  | [] => true
  | (a, b) :: m => decide (a < Config.memSize) && (b != resetByte a) && Memory.above a m && Memory.wf m

/-- `MemRead(a, 1)` (R53). Callers check the range first (R52). -/
def Memory.read : Memory → Nat → Byte
  | [], a => resetByte a
  | (b, w) :: m, a => if a = b then w else Memory.read m a

/-- The entry of address `a` taken out. -/
def Memory.erase (a : Nat) : Memory → Memory
  | [] => []
  | (b, w) :: m => if a = b then m else (b, w) :: Memory.erase a m

/-- An entry put at its place in the rising order, over any entry of the same address. -/
def Memory.insert (a : Nat) (v : Byte) : Memory → Memory
  | [] => [(a, v)]
  | (b, w) :: m =>
    if a < b then (a, v) :: (b, w) :: m
    else if a = b then (a, v) :: m
    else (b, w) :: Memory.insert a v m

/-- `MemWrite(a, 1, v)` (R53). Callers check the range first (R52), so that an address above 0xFFF never
gets here from an instruction; such an address names no byte and nothing is stored. -/
def Memory.write (m : Memory) (a : Nat) (v : Byte) : Memory :=
  if Config.memSize ≤ a then m
  else if v = resetByte a then Memory.erase a m
  else Memory.insert a v m

/-- Bytes written at ascending addresses from `a` (R53, R57). -/
def Memory.writeBytes (m : Memory) (a : Nat) : List Byte → Memory
  | [] => m
  | v :: vs => Memory.writeBytes (Memory.write m a v) (a + 1) vs

/-- `InRange(a, k)`: all of `a .. a+k-1` are memory addresses; true for `k = 0` (R8, R52). -/
def inRange (a k : Nat) : Bool := decide (k = 0) || decide (a + k ≤ Config.memSize)

/-- The byte at an address (R53). -/
def State.readByte (s : State) (a : Nat) : Byte := Memory.read s.mem a

/-- Bytes stored at ascending addresses from `a` (R53). -/
def State.writeBytes (s : State) (a : Nat) (vs : List Byte) : State :=
  { s with mem := Memory.writeBytes s.mem a vs }

/-! ### Registers and program counter (R20 to R25, R97) -/

/-- `V[x]` (R20). -/
def State.getV (s : State) (x : Reg) : Byte := s.v[x.val]

/-- `V[x] <- b` (R20); no register is hardwired. -/
def State.setV (s : State) (x : Reg) (b : Byte) : State := { s with v := s.v.set x.val b }

/-- Several registers written at once (R155). -/
def State.setRegs (s : State) (vs : Vector Byte 16) : State := { s with v := vs }

/-- `I <- w` (R25). -/
def State.setI (s : State) (w : Word) : State := { s with i := w }

/-- `pc <- t` (R23). -/
def State.setPc (s : State) (t : Word) : State := { s with pc := t }

/-- `next`: `pc <- (pc + 2) mod 2^16` (R97). -/
def State.advance (s : State) : State := s.setPc (s.pc + 2)

/-- `skip`: `pc <- (pc + 4) mod 2^16` (R8, R97). -/
def State.skip (s : State) : State := s.setPc (s.pc + 4)

/-- `if c: skip else: next`, the form of every conditional skip (R113 to R116, R178, R179). -/
def State.skipIf (s : State) (c : Bool) : State := if c then s.skip else s.advance

/-- A result to `V[x]`, then a flag to VF, in that order: with `x = 0xF` the flag stays (R5). -/
def State.setResultAndFlag (s : State) (x : Reg) (result flag : Byte) : State :=
  (s.setV x result).setV VF flag

/-! ### The call stack (R26) -/

/-- `STACK[k]`. -/
def State.cell (s : State) (k : Fin 16) : Word := s.stack[k.val]

/-- `STACK[SP] <- w ; SP <- SP + 1` for `SP < 16` (R112). -/
def State.push (s : State) (w : Word) (h : s.sp.val < 16) : State :=
  { s with stack := s.stack.set s.sp.val w, sp := ⟨s.sp.val + 1, by omega⟩ }

/-- `SP <- SP - 1 ; pc <- STACK[SP]` for `SP > 0`, with the new SP (R110). The cell keeps its value. -/
def State.popToPc (s : State) (h : 0 < s.sp.val) : State :=
  { s with
    sp := ⟨s.sp.val - 1, by omega⟩
    pc := s.cell ⟨s.sp.val - 1, by have := s.sp.isLt; omega⟩ }

/-! ### Taking a fault (R206) -/

/-- The code of a kind in `FAULT.kind` (R200). -/
def FaultKind.code : FaultKind → Nat
  | .undefinedOpcode => 1
  | .stackOverflow => 2
  | .stackUnderflow => 3
  | .addressOutOfRange => 4
  | .keyIndexOutOfRange => 5

/-- The code the record shows: 0 for no fault (R200). -/
def FaultRecord.code (r : FaultRecord) : Nat :=
  match r.kind with
  | none => 0
  | some k => k.code

/-- The state after `raise <Fault>(opcode, pc)`: only FAULT changes, `pc` still addresses the faulting
instruction (R206). There is no handler and no return from a fault: the record is sticky and only reset
clears it (R208, R211). -/
def State.withFault (s : State) (k : FaultKind) (opcode : Word) : State :=
  { s with fault := ⟨some k, opcode, s.pc⟩ }

/-- `raise <Fault>(opcode, pc)` (R206). The driver reads the fault in the record (R207). -/
def raise (k : FaultKind) (opcode : Word) (s : State) : Result := .next (s.withFault k opcode)

/-- Whether a fault is latched, `FAULT.kind != 0` (R208). -/
def State.faulted (s : State) : Bool := s.fault.kind.isSome

/-! ### Instruction fetch (R54, R84) -/

/-- Whether both bytes at `pc`, `pc + 1` are memory (R84 step 2). -/
def State.fetchable (s : State) : Bool := inRange s.pc.toNat 2

/-- `MemRead(pc, 2)`: the two bytes at `pc`, `pc + 1`, the lower address in bits 15:8 (R54); `pc` may be
odd (R55). -/
def State.fetchWord (s : State) : Word :=
  wordOfBytes (s.readByte s.pc.toNat) (s.readByte (s.pc.toNat + 1))

/-! ### The framebuffer (R31, R170, R171) -/

/-- The column a horizontal coordinate falls on, `px mod FB_W` (R171). -/
def column (px : Nat) : Fin Config.fbW := ⟨px % Config.fbW, Nat.mod_lt _ (by decide)⟩

/-- The line a vertical coordinate falls on, `py mod FB_H` (R171). -/
def line (py : Nat) : Fin Config.fbH := ⟨py % Config.fbH, Nat.mod_lt _ (by decide)⟩

/-- `FB[qy][qx]` (R31). -/
def Framebuffer.pixel (f : Framebuffer) (qx : Fin Config.fbW) (qy : Fin Config.fbH) : Bool :=
  f[qy.val][qx.val]

/-- `FB[qy][qx] <- FB[qy][qx] ^ 1` (R171). -/
def Framebuffer.flip (f : Framebuffer) (qx : Fin Config.fbW) (qy : Fin Config.fbH) : Framebuffer :=
  f.set qy.val (f[qy.val].set qx.val (!f.pixel qx qy))

/-- One turn of the loop of R171: pixel `k` of the row `b`, bit 7 leftmost. The second part is `col`. -/
def xorPixel (px py : Nat) (b : Byte) (acc : Framebuffer × Bool) (k : Nat) : Framebuffer × Bool :=
  if b.getLsbD (7 - k) then
    (acc.1.flip (column (px + k)) (line py), acc.2 || acc.1.pixel (column (px + k)) (line py))
  else acc

/-- `FbXorRow(px, py, b)`: the new pixels and the collision bit (R171). -/
def fbXorRow (f : Framebuffer) (px py : Nat) (b : Byte) : Framebuffer × Bool :=
  (List.range 8).foldl (xorPixel px py b) (f, false)

/-- One turn of the loop of R177: row `r` of the sprite, its byte given by `sprite r`. -/
def xorSpriteRow (px py : Nat) (sprite : Nat → Byte) (acc : Framebuffer × Bool) (r : Nat) :
    Framebuffer × Bool :=
  ((fbXorRow acc.1 px (py + r) (sprite r)).1, acc.2 || (fbXorRow acc.1 px (py + r) (sprite r)).2)

/-- The `n` rows of a sprite drawn at (px, py), and whether any set pixel was cleared (R177). -/
def fbXorSprite (f : Framebuffer) (px py n : Nat) (sprite : Nat → Byte) : Framebuffer × Bool :=
  (List.range n).foldl (xorSpriteRow px py sprite) (f, false)

/-- `FB[qy][qx]` of the machine. -/
def State.pixel (s : State) (qx : Fin Config.fbW) (qy : Fin Config.fbH) : Bool := s.fb.pixel qx qy

/-- The framebuffer after the rows of a sprite (R171, R177). -/
def State.setFb (s : State) (f : Framebuffer) : State := { s with fb := f }

/-- `FbClear()`: every pixel 0 (R170). -/
def State.fbClear (s : State) : State := { s with fb := Framebuffer.blank }

/-! ### The keypad (R32, R172, R173) -/

/-- `KeyPressed(k)`: the level of key k; no side effect (R172). -/
def State.keyPressed (s : State) (k : Key) : Bool := s.keys[k.val]

/-- What `KeyEvent()` returns (R173). -/
def State.keyEvent (s : State) : Option Key := s.keyLatch

/-- What `KeyEvent()` leaves: `KEYLATCH <- none` (R173). -/
def State.afterKeyEvent (s : State) : State := { s with keyLatch := none }

/-- `AWAIT <- b` (R28). -/
def State.setAwait (s : State) (b : Bool) : State := { s with await := b }

/-! ### The timers (R27) and the random source (R174) -/

/-- `DT <- b` (R182). -/
def State.setDt (s : State) (b : Byte) : State := { s with dt := b }

/-- `ST <- b` (R183). -/
def State.setSt (s : State) (b : Byte) : State := { s with st := b }

/-- What `RandomByte()` returns: the next draw (R174; a free value, log entry 4). -/
def State.randomByte (s : State) : Byte := Config.randomByte s.draws

/-- What `RandomByte()` leaves: the next call is a fresh draw (R174). -/
def State.afterRandomByte (s : State) : State := { s with draws := s.draws + 1 }

end Sys2Proof.Machine
end

