-- ==== Sys2Proof/Machine/Operands.lean ====
section
/-!
DEFINITION. Operand forms: how the fields of an instruction become the values it works on
(spec/30_encoding.md R83, spec/42_index_memory.md). Every immediate is unsigned and zero-extended.
-/

namespace Sys2Proof.Machine

/-- `zext_16(nnn)`: the address `nnn` as loaded into `pc` or `I` (R83). -/
def zextAddr (nnn : Addr) : Word := nnn.setWidth 16

/-- `zext_16(b)`: a byte as an addend of a 16-bit sum (R83). -/
def zextByte (b : Byte) : Word := b.setWidth 16

/-- The target of Bnnn: `zext_16(nnn) + zext_16(V[0])`, not reduced below 16 bits (R117, D9). -/
def jumpOffsetTarget (s : State) (nnn : Addr) : Word := zextAddr nnn + zextByte (s.getV 0)

/-- The effective address of the k-th byte at `I`: a natural number, not reduced (R52). -/
def effAddr (s : State) (k : Nat) : Nat := s.i.toNat + k

/-- The low nibble of a byte, the digit Fx29 looks up (R152). -/
def lowNibble (b : Byte) : Nat := b.toNat % 16

/-- The address of glyph d: `FONT_BASE + 5 * d` (R62, R152). -/
def glyphAddr (d : Nat) : Word := BitVec.ofNat 16 (Config.fontBase + 5 * d)

/-- The key a register value numbers, none when it is above 15 (R178, R179, D14). -/
def keyNumber (b : Byte) : Option Key := if h : b.toNat ≤ 15 then some ⟨b.toNat, by omega⟩ else none

/-- The hundreds, tens and ones digits of a byte, most significant first (R153, R57). -/
def bcdDigits (b : Byte) : List Byte :=
  [BitVec.ofNat 8 (b.toNat / 100), BitVec.ofNat 8 (b.toNat / 10 % 10), BitVec.ofNat 8 (b.toNat % 10)]

/-- How many registers the inclusive range `V[0]..V[x]` has (R154, R155). -/
def rangeCount (x : Reg) : Nat := x.val + 1

/-- The values of `V[0]..V[x]`, in order (R154). -/
def registersUpTo (s : State) (x : Reg) : List Byte := s.v.toList.take (rangeCount x)

/-- The register file after `V[k] <- MemRead(I + k, 1)` for k in 0..x; registers above x keep their
values (R155). -/
def registersLoaded (s : State) (x : Reg) : Vector Byte 16 :=
  Vector.ofFn fun r : Reg => if r.val ≤ x.val then s.readByte (effAddr s r.val) else s.getV r

/-- Row r of the sprite at `I` (R177). -/
def spriteRow (s : State) (r : Nat) : Byte := s.readByte (effAddr s r)

end Sys2Proof.Machine
end

