-- ==== Sys2Proof/Machine/Control.lean ====
section
/-!
DEFINITION. Control transfer: 00EE, 1nnn, 2nnn, 3xnn, 4xnn, 5xy0, 9xy0, Bnnn (spec/40_control_flow.md R110 to
R117). Each writes `pc` itself and does not also apply the default advance (R97).
-/

namespace Sys2Proof.Machine

/-- `RET` (R110): StackUnderflow when the stack is empty, before any write (R203). -/
def execRet (s : State) : Result :=
  if h : 0 < s.sp.val then .next (s.popToPc h) else raise .stackUnderflow (encode .ret) s

/-- `JP nnn` (R111). -/
def execJp (nnn : Addr) (s : State) : Result := .next (s.setPc (zextAddr nnn))

/-- `CALL nnn` (R112): pushes `pc + 2`; StackOverflow when `SP = 16`, before any write (R202). -/
def execCall (nnn : Addr) (s : State) : Result :=
  if h : s.sp.val < 16 then .next ((s.push (s.pc + 2) h).setPc (zextAddr nnn))
  else raise .stackOverflow (encode (.callNnn nnn)) s

/-- `SE Vx, nn` (R113). -/
def execSeByte (x : Reg) (nn : Byte) (s : State) : Result := .next (s.skipIf (s.getV x == nn))

/-- `SNE Vx, nn` (R114). -/
def execSneByte (x : Reg) (nn : Byte) (s : State) : Result := .next (s.skipIf (s.getV x != nn))

/-- `SE Vx, Vy` (R115). -/
def execSeReg (x y : Reg) (s : State) : Result := .next (s.skipIf (s.getV x == s.getV y))

/-- `SNE Vx, Vy` (R116). -/
def execSneReg (x y : Reg) (s : State) : Result := .next (s.skipIf (s.getV x != s.getV y))

/-- `JP V0, nnn` (R117): always register 0. -/
def execJpV0 (nnn : Addr) (s : State) : Result := .next (s.setPc (jumpOffsetTarget s nnn))

end Sys2Proof.Machine
end

