-- ==== Sys2Proof/Machine/IndexMemory.lean ====
section
/-!
DEFINITION. Index register and memory operations: Annn, Fx1E, Fx29, Fx33, Fx55, Fx65
(spec/42_index_memory.md R150 to R155). The range check precedes every write (R52); `I` is unchanged by loads
and stores (R4); none writes VF as a flag.
-/

namespace Sys2Proof.Machine

/-- `LD I, nnn` (R150). -/
def execLdI (nnn : Addr) (s : State) : Result := .next (s.setI (zextAddr nnn)).advance

/-- `ADD I, Vx` (R151): modulo 2^16, no flag. -/
def execAddI (x : Reg) (s : State) : Result := .next (s.setI (s.i + zextByte (s.getV x))).advance

/-- `LD F, Vx` (R152): the glyph of the low nibble of `V[x]`. -/
def execLdF (x : Reg) (s : State) : Result := .next (s.setI (glyphAddr (lowNibble (s.getV x)))).advance

/-- `LD B, Vx` (R153): three decimal digits at I, I+1, I+2. -/
def execLdB (x : Reg) (s : State) : Result :=
  if inRange (effAddr s 0) 3 then .next (s.writeBytes (effAddr s 0) (bcdDigits (s.getV x))).advance
  else raise .addressOutOfRange (encode (.ldBVx x)) s

/-- `LD [I], Vx` (R154): V0..Vx to memory at I, inclusive. -/
def execLdMemVx (x : Reg) (s : State) : Result :=
  if inRange (effAddr s 0) (rangeCount x) then
    .next (s.writeBytes (effAddr s 0) (registersUpTo s x)).advance
  else raise .addressOutOfRange (encode (.ldMemVx x)) s

/-- `LD Vx, [I]` (R155): V0..Vx from memory at I, inclusive. -/
def execLdVxMem (x : Reg) (s : State) : Result :=
  if inRange (effAddr s 0) (rangeCount x) then .next (s.setRegs (registersLoaded s x)).advance
  else raise .addressOutOfRange (encode (.ldVxMem x)) s

end Sys2Proof.Machine
end

