-- ==== Sys2Proof/Machine/Flags.lean ====
section
/-!
DEFINITION. Every value an operation writes to VF as a flag (spec/10_state.md R22), always 0x00 or 0x01, and
the wrapped results beside them (spec/41_load_arith_logic.md R131, R136 to R141). Sums are formed as natural
numbers and narrowed at the end.
-/

namespace Sys2Proof.Machine

/-- A flag as the full byte VF takes: 0x01 or 0x00 (R22). -/
def flagByte (c : Bool) : Byte := if c then 1 else 0

/-- `(a + b) mod 256` (R131, R136). -/
def sumByte (a b : Byte) : Byte := BitVec.ofNat 8 (a.toNat + b.toNat)

/-- Carry out of 8 bits: the sum exceeds 255 (R136). -/
def carryOut (a b : Byte) : Bool := decide (255 < a.toNat + b.toNat)

/-- `(a - b) mod 256` (R137, R139). -/
def differenceByte (a b : Byte) : Byte := BitVec.ofNat 8 (a.toNat + 256 - b.toNat)

/-- No borrow: the minuend is at least the subtrahend (R137, R139). -/
def noBorrow (a b : Byte) : Bool := decide (b.toNat ≤ a.toNat)

/-- `a >> 1`, logical (R138). -/
def shiftedRight (a : Byte) : Byte := a >>> 1

/-- The bit a right shift loses, `a[0]` (R138). -/
def lostRight (a : Byte) : Bool := a.getLsbD 0

/-- `(a << 1) mod 256` (R140). -/
def shiftedLeft (a : Byte) : Byte := a <<< 1

/-- The bit a left shift loses, `a[7]` (R140). -/
def lostLeft (a : Byte) : Bool := a.getLsbD 7

end Sys2Proof.Machine
end

