-- ==== Sys2Proof/Machine/LoadArithLogic.lean ====
section
/-!
DEFINITION. Register load, arithmetic, logic and shift: 6xnn, 7xnn, 8xy0 to 8xy7, 8xyE
(spec/41_load_arith_logic.md R130 to R141). Operands are read from the state before the step; where a flag is
written it is written last (spec/00_scope.md R5). Each ends with `next` and raises no fault.
-/

namespace Sys2Proof.Machine

/-- `LD Vx, nn` (R130). -/
def execLdByte (x : Reg) (nn : Byte) (s : State) : Result := .next (s.setV x nn).advance

/-- `ADD Vx, nn` (R131): wraps, no flag. -/
def execAddByte (x : Reg) (nn : Byte) (s : State) : Result :=
  .next (s.setV x (sumByte (s.getV x) nn)).advance

/-- `LD Vx, Vy` (R132). -/
def execLdReg (x y : Reg) (s : State) : Result := .next (s.setV x (s.getV y)).advance

/-- `OR Vx, Vy` (R133): no flag effect. -/
def execOr (x y : Reg) (s : State) : Result := .next (s.setV x (s.getV x ||| s.getV y)).advance

/-- `AND Vx, Vy` (R134): no flag effect. -/
def execAnd (x y : Reg) (s : State) : Result := .next (s.setV x (s.getV x &&& s.getV y)).advance

/-- `XOR Vx, Vy` (R135): no flag effect. -/
def execXor (x y : Reg) (s : State) : Result := .next (s.setV x (s.getV x ^^^ s.getV y)).advance

/-- `ADD Vx, Vy` (R136): VF := carry out; no carry in. -/
def execAddReg (x y : Reg) (s : State) : Result :=
  .next (s.setResultAndFlag x (sumByte (s.getV x) (s.getV y))
    (flagByte (carryOut (s.getV x) (s.getV y)))).advance

/-- `SUB Vx, Vy` (R137): VF := 1 when `V[x] >= V[y]`. -/
def execSub (x y : Reg) (s : State) : Result :=
  .next (s.setResultAndFlag x (differenceByte (s.getV x) (s.getV y))
    (flagByte (noBorrow (s.getV x) (s.getV y)))).advance

/-- `SHR Vx` (R138): VF := bit 0 before the shift; `V[y]` is not read (R93). -/
def execShr (x _y : Reg) (s : State) : Result :=
  .next (s.setResultAndFlag x (shiftedRight (s.getV x)) (flagByte (lostRight (s.getV x)))).advance

/-- `SUBN Vx, Vy` (R139): `V[x] <- V[y] - V[x]`, VF := 1 when `V[y] >= V[x]`. -/
def execSubn (x y : Reg) (s : State) : Result :=
  .next (s.setResultAndFlag x (differenceByte (s.getV y) (s.getV x))
    (flagByte (noBorrow (s.getV y) (s.getV x)))).advance

/-- `SHL Vx` (R140): VF := bit 7 before the shift; `V[y]` is not read (R93). -/
def execShl (x _y : Reg) (s : State) : Result :=
  .next (s.setResultAndFlag x (shiftedLeft (s.getV x)) (flagByte (lostLeft (s.getV x)))).advance

end Sys2Proof.Machine
end

