-- ==== Sys2Proof/Machine/PeripheralIO.lean ====
section
/-!
DEFINITION. Peripheral input and output: 00E0, Cxnn, Dxyn, Ex9E, ExA1, Fx07, Fx0A, Fx15, Fx18
(spec/43_peripheral_io.md R175 to R183), and the one operation that has no encoding (R184).
-/

namespace Sys2Proof.Machine

/-- `CLS` (R175): VF unchanged. -/
def execCls (s : State) : Result := .next s.fbClear.advance

/-- `RND Vx, nn` (R176): a fresh draw AND nn. -/
def execRnd (x : Reg) (nn : Byte) (s : State) : Result :=
  .next (s.afterRandomByte.setV x (s.randomByte &&& nn)).advance

/-- What Dxyn draws: the sprite of n rows at I, at column `V[x]` and line `V[y]`, over the framebuffer as it
stands, and whether a set pixel was cleared (R177). -/
def drawing (x y : Reg) (n : Nat) (s : State) : Framebuffer × Bool :=
  fbXorSprite s.fb (s.getV x).toNat (s.getV y).toNat n (spriteRow s)

/-- `DRW Vx, Vy, n` (R177): VF := collision, always written, also when n = 0. -/
def execDrw (x y : Reg) (n : Nat) (s : State) : Result :=
  if inRange (effAddr s 0) n then
    .next ((s.setFb (drawing x y n s).1).setV VF (flagByte (drawing x y n s).2)).advance
  else raise .addressOutOfRange (encode (.drwVxVyN x y n)) s

/-- `SKP Vx` (R178): skips when the key is down; KEYLATCH is not consumed. -/
def execSkp (x : Reg) (s : State) : Result :=
  match keyNumber (s.getV x) with
  | some k => .next (s.skipIf (s.keyPressed k))
  | none => raise .keyIndexOutOfRange (encode (.skpVx x)) s

/-- `SKNP Vx` (R179): skips when the key is up. -/
def execSknp (x : Reg) (s : State) : Result :=
  match keyNumber (s.getV x) with
  | some k => .next (s.skipIf (!s.keyPressed k))
  | none => raise .keyIndexOutOfRange (encode (.sknpVx x)) s

/-- `LD Vx, DT` (R180). -/
def execLdVxDt (x : Reg) (s : State) : Result := .next (s.setV x s.dt).advance

/-- `LD Vx, K` (R181): one poll of the keypad. Without an event AWAIT is set and `pc` stays; with one the
event is consumed, `V[x]` takes the key, AWAIT is cleared. -/
def execLdVxK (x : Reg) (s : State) : Result :=
  match s.keyEvent with
  | none => .next (s.afterKeyEvent.setAwait true)
  | some k => .next ((s.afterKeyEvent.setV x (BitVec.ofNat 8 k.val)).setAwait false).advance

/-- `LD DT, Vx` (R182). -/
def execLdDtVx (x : Reg) (s : State) : Result := .next (s.setDt (s.getV x)).advance

/-- `LD ST, Vx` (R183). -/
def execLdStVx (x : Reg) (s : State) : Result := .next (s.setSt (s.getV x)).advance

/-- "load Vx := sound timer" (R184): the effect the spec records for an operation that has NO encoding (R94).
No constructor of `Instr` and no word selects it, so no step reaches it. -/
def unencodedLdVxSt (x : Reg) (s : State) : Result := .next (s.setV x s.st).advance

end Sys2Proof.Machine
end

