-- ==== Sys2Proof/Machine/Execute.lean ====
section
/-!
DEFINITION. The execute step (spec/30_encoding.md R84), the core's only step (spec/00_scope.md R2).
-/

namespace Sys2Proof.Machine

/-- Steps 3 to 7 of R84: the word at `pc`, its operation, its effect; UndefinedOpcode with the raw word
when no operation is selected (R91, R201). -/
def executeWord (w : Word) (s : State) : Result :=
  match decode w with
  | .ok i => exec i s
  | .error _ => raise .undefinedOpcode w s

/-- One `execute` step (R84). A latched fault is returned and nothing changes (step 1, R208); a fetch
outside memory raises AddressOutOfRange with opcode 0x0000 (step 2, R204). -/
def execute (s : State) : Result :=
  if s.faulted then .fault (.latched s.fault)
  else if s.fetchable then executeWord s.fetchWord s
  else raise .addressOutOfRange 0x0000 s

/-- The word `w` stored at `pc`, `pc + 1`, high byte first, where the next `execute` fetches (R54). -/
def State.storeAtPc (s : State) (w : Word) : State :=
  s.writeBytes s.pc.toNat [highByte w, lowByte w]

end Sys2Proof.Machine
end

