-- ==== Sys2Proof/Machine/Step.lean ====
section
/-!
DEFINITION. One step of the machine, and a state whose next step runs a given word.
-/

namespace Sys2Proof.Machine

/-- One step of the machine is one `execute` (R2, R84). The other agents act between steps
(Machine/Agents.lean). -/
def step (s : State) : Host.Outcome State Fault Refusal := execute s

/-- `s` with the instruction whose table word is `w` stored where `step` fetches next: the stand-in for the
ROM load of R231. It changes memory only, so the fetch runs it where `pc + 1 <= 0xFFF` and no fault is
latched, as after reset. Log entry 7. -/
def State.withFetchWord (s : State) (nbits w : Nat) : State :=
  s.storeAtPc (BitVec.ofNat 16 (w % 2 ^ nbits))

end Sys2Proof.Machine
end

