-- ==== Sys2Proof/Machine/Agents.lean ====
section
/-!
DEFINITION. The agents that act between `execute` steps (spec/00_scope.md R2): the driver's timer tick, the
keypad, the host's reset and ROM load, and a session that interleaves whole steps of all of them in any order
(spec/60_exceptions.md R213, spec/43_peripheral_io.md R173, spec/70_reset_and_hazards.md R230 to R235).
-/

namespace Sys2Proof.Machine

/-- One count of a countdown timer: it stops at zero (R213, D20). -/
def countDown (b : Byte) : Byte := if 0 < b.toNat then b - 1 else b

/-- `timer_tick()`, the driver's action; also in a faulted machine (R208, R213). -/
def State.timerTick (s : State) : State := { s with dt := countDown s.dt, st := countDown s.st }

/-- Key k goes down: the level is set and the press is posted, the latest press winning; a key that is
already down makes no edge and posts nothing (R173, D18). -/
def State.pressKey (s : State) (k : Key) : State :=
  if s.keyPressed k then s else { s with keys := s.keys.set k.val true, keyLatch := some k }

/-- Key k goes up: the level is cleared, KEYLATCH is left (R173). -/
def State.releaseKey (s : State) (k : Key) : State := { s with keys := s.keys.set k.val false }

/-- Reset, a host action at any time, also in a faulted machine (R230): every piece of state at its value of
R34, but the key levels, which reset does not set. The random source is outside the machine and goes on
(R33; log entry 4). -/
def State.hostReset (s : State) : State := { State.reset with keys := s.keys, draws := s.draws }

/-- What `load_rom` answers (R231). -/
inductive LoadResult where
  /-- The bytes were copied. -/
  | loaded (s : State)
  /-- The image is longer than 3584 bytes; nothing was written (R231, D23). -/
  | romTooLarge
  deriving DecidableEq, Repr

/-- `load_rom(bytes)`: the bytes copied verbatim from 0x200 on, or the whole load refused (R231). -/
def State.loadRom (s : State) (bytes : List Byte) : LoadResult :=
  if bytes.length ≤ Config.maxRom then .loaded (s.writeBytes Config.programOrigin bytes)
  else .romTooLarge

/-- An action of one agent (R2). -/
inductive Event where
  /-- The driver calls `execute`. -/
  | execute
  /-- The driver ticks the timers. -/
  | timerTick
  /-- The keypad: key k goes down. -/
  | press (k : Key)
  /-- The keypad: key k goes up. -/
  | release (k : Key)
  /-- The host resets the machine. -/
  | reset
  /-- The host loads a ROM image. -/
  | loadRom (bytes : List Byte)
  deriving DecidableEq, Repr

/-- A machine with its driver and host. `loadable` is the MODEL's own: true from reset to the first
`execute`, the only time `load_rom` is legal (R231, R235). -/
structure Session where
  machine : State
  loadable : Bool
  deriving DecidableEq, Repr

/-- A session begins with a machine that has been reset (R232, R235). -/
def Session.start : Session := ⟨State.reset, true⟩

/-- The machine after an `execute` call: the next state, or the same state when the call only returned the
latched fault (R208). -/
def State.afterExecute (s : State) : State :=
  match step s with
  | .next t => t
  | .fault _ => s
  | .refused _ => s

/-- The session after an action; `none` when the model gives no such move: a load after the first
`execute` (R231, R235, U21). -/
def Session.perform (m : Session) : Event → Option Session
  | .execute => some ⟨m.machine.afterExecute, false⟩
  | .timerTick => some { m with machine := m.machine.timerTick }
  | .press k => some { m with machine := m.machine.pressKey k }
  | .release k => some { m with machine := m.machine.releaseKey k }
  | .reset => some ⟨m.machine.hostReset, true⟩
  | .loadRom bytes =>
    if m.loadable then
      match m.machine.loadRom bytes with
      | .loaded t => some { m with machine := t }
      | .romTooLarge => some m
    else none

/-- The session after a list of actions, in order. -/
def Session.run (m : Session) : List Event → Option Session
  | [] => some m
  | e :: es =>
    match m.perform e with
    | some m' => Session.run m' es
    | none => none

end Sys2Proof.Machine
end

