-- ==== Sys2Proof/Safety.lean ====
section
/-!
DEFINITION. The terms claims are stated in: which parts of the state a step may change and what within
them (spec/00_scope.md R4), the invariants (spec/10_state.md R24, R35), the end of a run
(spec/70_reset_and_hazards.md R237) and a run without a fault.
-/

namespace Sys2Proof.Machine

/-! ### Frames -/

/-- The parts of the state, one for each field. -/
inductive Part where
  | v | i | pc | stack | sp | dt | st | await | fault | mem | fb | keys | keyLatch | draws
  deriving DecidableEq, Repr

/-- The two states agree on a part, as its accessors read it: every register, every stack cell, every byte of
memory, every pixel, every key. -/
def Part.same (s t : State) : Part → Prop
  | .v => ∀ r, t.getV r = s.getV r
  | .i => t.i = s.i
  | .pc => t.pc = s.pc
  | .stack => ∀ k, t.cell k = s.cell k
  | .sp => t.sp = s.sp
  | .dt => t.dt = s.dt
  | .st => t.st = s.st
  | .await => t.await = s.await
  | .fault => t.fault = s.fault
  | .mem => ∀ a, t.readByte a = s.readByte a
  | .fb => ∀ qx qy, t.pixel qx qy = s.pixel qx qy
  | .keys => ∀ k, t.keyPressed k = s.keyPressed k
  | .keyLatch => t.keyLatch = s.keyLatch
  | .draws => t.draws = s.draws

/-- Everything outside the named parts keeps its value (R4). -/
def OnlyChanges (changed : List Part) (s t : State) : Prop := ∀ p, p ∉ changed → Part.same s t p

end Sys2Proof.Machine

namespace Sys2Proof

/-- What the rule of an instruction names as written, apart from FAULT (R4, with R110 to R183): the effect
columns of the instruction rules, read as full lists of writes. -/
def Instr.writes : Instr → List Machine.Part
  | .cls => [.fb, .pc]
  | .ret => [.sp, .pc]
  | .jpNnn _ | .jpV0Nnn _ => [.pc]
  | .callNnn _ => [.stack, .sp, .pc]
  | .seVxNn _ _ | .sneVxNn _ _ | .seVxVy _ _ | .sneVxVy _ _ | .skpVx _ | .sknpVx _ => [.pc]
  | .ldVxNn _ _ | .addVxNn _ _ | .ldVxVy _ _ | .orVxVy _ _ | .andVxVy _ _ | .xorVxVy _ _ => [.v, .pc]
  | .addVxVy _ _ | .subVxVy _ _ | .shrVx _ _ | .subnVxVy _ _ | .shlVx _ _ => [.v, .pc]
  | .ldINnn _ | .addIVx _ | .ldFVx _ => [.i, .pc]
  | .rndVxNn _ _ => [.v, .draws, .pc]
  | .drwVxVyN _ _ _ => [.fb, .v, .pc]
  | .ldVxDt _ | .ldVxMem _ => [.v, .pc]
  | .ldVxK _ => [.keyLatch, .await, .v, .pc]
  | .ldDtVx _ => [.dt, .pc]
  | .ldStVx _ => [.st, .pc]
  | .ldBVx _ | .ldMemVx _ => [.mem, .pc]

end Sys2Proof

namespace Sys2Proof.Machine

/-- The instruction raises a fault: the step ends with the record written, its opcode the instruction's word
and its pc the instruction's address, and nothing else changed (R206). -/
def Raises (i : Instr) (s : State) (k : FaultKind) : Prop :=
  ∃ t, exec i s = .next t ∧ t.fault = ⟨some k, encode i, s.pc⟩ ∧ OnlyChanges [.fault] s t

/-! ### What an instruction writes within a part -/

/-- Whether the sprite of n rows drawn at (px, py) has a 1 at pixel (qx, qy): some row r and some bit k of it
land there (R171, R177). -/
def spriteHas (px py n : Nat) (sprite : Nat → Byte) (qx : Fin Config.fbW) (qy : Fin Config.fbH) : Prop :=
  ∃ r < n, ∃ k < 8, column (px + k) = qx ∧ line (py + r) = qy ∧ (sprite r).getLsbD (7 - k) = true

/-- The registers an instruction that completes at `s` writes (R21): the destination `V[x]`, VF as a flag (R22),
V0..Vx of Fx65, and `V[x]` of Fx0A only when an event is pending (R181). -/
def writesRegister (s : State) (r : Reg) : Instr → Prop
  | .ldVxNn x _ | .addVxNn x _ | .ldVxVy x _ | .orVxVy x _ | .andVxVy x _ | .xorVxVy x _ | .rndVxNn x _
  | .ldVxDt x => r = x
  | .addVxVy x _ | .subVxVy x _ | .shrVx x _ | .subnVxVy x _ | .shlVx x _ => r = x ∨ r = VF
  | .drwVxVyN _ _ _ => r = VF
  | .ldVxK x => s.keyLatch ≠ none ∧ r = x
  | .ldVxMem x => r.val ≤ x.val
  | .cls | .ret | .jpNnn _ | .callNnn _ | .jpV0Nnn _ | .seVxNn _ _ | .sneVxNn _ _ | .seVxVy _ _ | .sneVxVy _ _
  | .skpVx _ | .sknpVx _ | .ldINnn _ | .addIVx _ | .ldFVx _ | .ldBVx _ | .ldMemVx _ | .ldDtVx _
  | .ldStVx _ => False

/-- The stack cells it writes: the cell at SP, by a call (R26, R112). -/
def writesCell (s : State) (k : Fin 16) : Instr → Prop
  | .callNnn _ => k.val = s.sp.val
  | .cls | .ret | .jpNnn _ | .jpV0Nnn _ | .seVxNn _ _ | .sneVxNn _ _ | .seVxVy _ _ | .sneVxVy _ _ | .skpVx _
  | .sknpVx _ | .ldVxNn _ _ | .addVxNn _ _ | .ldVxVy _ _ | .orVxVy _ _ | .andVxVy _ _ | .xorVxVy _ _
  | .addVxVy _ _ | .subVxVy _ _ | .shrVx _ _ | .subnVxVy _ _ | .shlVx _ _ | .ldINnn _ | .addIVx _ | .ldFVx _
  | .rndVxNn _ _ | .drwVxVyN _ _ _ | .ldVxDt _ | .ldVxK _ | .ldDtVx _ | .ldStVx _ | .ldBVx _ | .ldMemVx _
  | .ldVxMem _ => False

/-- The addresses it stores to: three bytes from `I` by Fx33, `x + 1` bytes from `I` by Fx55 (R56). -/
def storesTo (s : State) (a : Nat) : Instr → Prop
  | .ldBVx _ => effAddr s 0 ≤ a ∧ a ≤ effAddr s 0 + 2
  | .ldMemVx x => effAddr s 0 ≤ a ∧ a ≤ effAddr s 0 + rangeCount x - 1
  | .cls | .ret | .jpNnn _ | .callNnn _ | .jpV0Nnn _ | .seVxNn _ _ | .sneVxNn _ _ | .seVxVy _ _ | .sneVxVy _ _
  | .skpVx _ | .sknpVx _ | .ldVxNn _ _ | .addVxNn _ _ | .ldVxVy _ _ | .orVxVy _ _ | .andVxVy _ _
  | .xorVxVy _ _ | .addVxVy _ _ | .subVxVy _ _ | .shrVx _ _ | .subnVxVy _ _ | .shlVx _ _ | .ldINnn _
  | .addIVx _ | .ldFVx _ | .rndVxNn _ _ | .drwVxVyN _ _ _ | .ldVxDt _ | .ldVxK _ | .ldDtVx _ | .ldStVx _
  | .ldVxMem _ => False

/-- The pixels it writes: all of them by 00E0 (R170), those with a 1 of the sprite by Dxyn (R171). -/
def writesPixel (s : State) (qx : Fin Config.fbW) (qy : Fin Config.fbH) : Instr → Prop
  | .cls => True
  | .drwVxVyN x y n => spriteHas (s.getV x).toNat (s.getV y).toNat n (spriteRow s) qx qy
  | .ret | .jpNnn _ | .callNnn _ | .jpV0Nnn _ | .seVxNn _ _ | .sneVxNn _ _ | .seVxVy _ _ | .sneVxVy _ _
  | .skpVx _ | .sknpVx _ | .ldVxNn _ _ | .addVxNn _ _ | .ldVxVy _ _ | .orVxVy _ _ | .andVxVy _ _
  | .xorVxVy _ _ | .addVxVy _ _ | .subVxVy _ _ | .shrVx _ _ | .subnVxVy _ _ | .shlVx _ _ | .ldINnn _
  | .addIVx _ | .ldFVx _ | .rndVxNn _ _ | .ldVxDt _ | .ldVxK _ | .ldDtVx _ | .ldStVx _ | .ldBVx _ | .ldMemVx _
  | .ldVxMem _ => False

/-! ### Invariants -/

/-- The fault record says what R29 and R206 say it says: clear fields while no fault is latched (R34), and
while one is latched `FAULT.pc` is the `pc` that still addresses the faulting instruction. -/
def State.faultConsistent (s : State) : Prop :=
  (s.fault.kind = none → s.fault = FaultRecord.clear) ∧ (s.fault.kind ≠ none → s.fault.pc = s.pc)

/-- The bounds of R24 on what a run can put in `pc`: at most 0x10FE, and at most 0x1000 in a stack cell. -/
def State.pcBounded (s : State) : Prop :=
  s.pc.toNat ≤ 0x10FE ∧ ∀ k, (s.cell k).toNat ≤ 0x1000

/-- The machine's invariant: memory canonical, `pc` and the stack cells bounded, the fault record
consistent. -/
def State.Inv (s : State) : Prop := Memory.wf s.mem = true ∧ s.pcBounded ∧ s.faultConsistent

/-- While AWAIT is 1, `pc` still addresses the Fx0A that waits, and no fault is latched (R28). -/
def State.awaitsAtWait (s : State) : Prop :=
  s.await = true →
    s.faulted = false ∧ s.fetchable = true ∧ ∃ x, decode s.fetchWord = .ok (.ldVxK x)

/-- The session invariant: the machine's two, and no wait before the first `execute`. -/
def Session.Inv (m : Session) : Prop :=
  m.machine.Inv ∧ m.machine.awaitsAtWait ∧ (m.loadable = true → m.machine.await = false)

/-! ### Safe runs -/

/-- The end of a run by the spec's convention: no fault, and `pc` addresses a word `1nnn` with `nnn = pc`
(R237, D30). -/
def State.ended (s : State) : Bool :=
  !s.faulted && s.fetchable &&
    match decode s.fetchWord with
    | .ok (.jpNnn nnn) => zextAddr nnn == s.pc
    | _ => false

/-- A safe run: k steps that all answer a next state, and no fault in any record on the way (R206, R208). -/
def SafeRun : Nat → State → Prop
  | 0, s => s.faulted = false
  | k + 1, s => s.faulted = false ∧ ∃ t, step s = .next t ∧ SafeRun k t

end Sys2Proof.Machine
end

