-- ==== Sys2Proof/Certificates/Slice0/Obligations.lean ====
section
/-!
DEFINITION. The statements about the machine, from the numbered rules of spec/. Registers, stack cells, bytes,
pixels and keys are read through the model's accessors; a frame is `OnlyChanges` with the parts that may change;
`Raises` says that the instruction raises a fault and does nothing else. A statement about every state holds in
states no run reaches too; where memory must be canonical the premise is the invariant of
`EveryStepKeepsTheInvariant`.
-/

open Sys2Proof Sys2Proof.Machine

/-! ### Encoding (spec/30_encoding.md) -/

/-- Words written out from the patterns of R95 and the examples of spec/95_test_vectors.md decode to what they
stand for, and the spec's own undefined examples to nothing. A sanity check. -/
def Obligations.WordsWrittenOutDecode : Prop :=
  decode 0x00E0 = .ok .cls ∧ decode 0x00EE = .ok .ret ∧ decode 0x2300 = .ok (.callNnn 0x300) ∧
  decode 0x3010 = .ok (.seVxNn 0 0x10) ∧ decode 0x8124 = .ok (.addVxVy 1 2) ∧
  decode 0xA2F0 = .ok (.ldINnn 0x2F0) ∧ decode 0xD125 = .ok (.drwVxVyN 1 2 5) ∧
  decode 0xE19E = .ok (.skpVx 1) ∧ decode 0xF265 = .ok (.ldVxMem 2) ∧
  decode 0x5001 = .error (.undefinedOpcode 0x5001) ∧ decode 0x0000 = .error (.undefinedOpcode 0x0000)

/-- Decode and encode agree: the word of every well-formed instruction decodes to it, every operand at every
value, and its two bytes, high byte first, decode to it whatever follows (R80, R81, R95). -/
def Obligations.DecodeOfEncodeIsTheInstruction : Prop :=
  ∀ i : Instr, i.wf = true →
    decode (encode i) = .ok i ∧
    ∀ rest, decodeBytes (encodeBytes i ++ rest) = .ok (i, rest)

/-- Each word has one meaning and no bit of it is dropped: a word that decodes is the word of its instruction,
which is well-formed (R81, R93: `y` of the shifts is an operand field too). -/
def Obligations.EncodeOfDecodeIsTheWord : Prop :=
  ∀ (w : Word) (i : Instr), decode w = .ok i → i.wf = true ∧ encode i = w

/-- The undefined words are exactly those R91 lists; fetching one raises UndefinedOpcode with the raw word and
the `pc`, and changes no other state (R91). -/
def Obligations.UndefinedWordsAreThoseListed : Prop :=
  ∀ w : Word,
    (∀ s : State, s.fault.kind = none → s.pc.toNat + 1 ≤ 0xFFF → s.fetchWord = w →
      decode w = .error (.undefinedOpcode w) →
      ∃ t, Sys2Proof.Machine.step s = .next t ∧ t.fault = ⟨some .undefinedOpcode, w, s.pc⟩ ∧
        OnlyChanges [.fault] s t) ∧
    (decode w = .error (.undefinedOpcode w) ↔
    (w.toNat < 0x1000 ∧ w.toNat ≠ 0x0E0 ∧ w.toNat ≠ 0x0EE) ∨
    (w.toNat / 0x1000 = 0x5 ∧ w.toNat % 16 ≠ 0) ∨ (w.toNat / 0x1000 = 0x9 ∧ w.toNat % 16 ≠ 0) ∨
    (w.toNat / 0x1000 = 0x8 ∧ w.toNat % 16 ∈ [0x8, 0x9, 0xA, 0xB, 0xC, 0xD, 0xF]) ∨
    (w.toNat / 0x1000 = 0xE ∧ w.toNat % 256 ∉ [0x9E, 0xA1]) ∨
    (w.toNat / 0x1000 = 0xF ∧
      w.toNat % 256 ∉ [0x07, 0x0A, 0x15, 0x18, 0x1E, 0x29, 0x33, 0x55, 0x65]))

/-- The decoder and the table of masks agree: a word decodes exactly when a row covers it, and the row that covers
it is the row of its instruction, so that no two rows overlap (R91, R92, R95). -/
def Obligations.DecoderAgreesWithTheOpcodeTable : Prop :=
  ∀ w : Word,
    ((∃ i, decode w = .ok i) ↔ ∃ r ∈ opcodeTable, r.covers w = true) ∧
    ∀ i, decode w = .ok i → ∀ r ∈ opcodeTable, r.covers w = true → r.mnemonic = i.mnemonic

/-! ### The execute step (spec/30_encoding.md R84) -/

/-- When no fault is latched, both bytes at `pc` are memory and they decode to an instruction, `step` runs it
on that state; the step adds nothing around it, since every instruction writes `pc` itself (R84, R97). -/
def Obligations.StepRunsTheDecodedInstruction : Prop :=
  ∀ (s : State) (i : Instr), s.fault.kind = none → s.pc.toNat + 1 ≤ 0xFFF →
    decodeBytes [s.readByte s.pc.toNat, s.readByte (s.pc.toNat + 1)] = .ok (i, []) →
    i.wf = true ∧ Sys2Proof.Machine.step s = Sys2Proof.Machine.exec i s

/-- A word stored where the machine fetches next is the word it runs, high byte at the lower address (R54, R61);
`withFetchWord` is the model's stand-in for a load, log entry 7. -/
def Obligations.AWordStoredAtThePcRunsNext : Prop :=
  ∀ (s : State) (i : Instr), s.fault.kind = none → s.pc.toNat + 1 ≤ 0xFFF → Memory.wf s.mem = true →
    i.wf = true →
    let t := s.withFetchWord 16 (encode i).toNat
    t.readByte s.pc.toNat = highByte (encode i) ∧ t.readByte (s.pc.toNat + 1) = lowByte (encode i) ∧
    OnlyChanges [.mem] s t ∧ Sys2Proof.Machine.step t = Sys2Proof.Machine.exec i t

/-- A step that raises a fault writes the record and nothing else: the word fetched (0x0000 when the fetch
itself is out of range), and the `pc` that still addresses the instruction (R206, R200). -/
def Obligations.RaisingAFaultWritesOnlyTheRecord : Prop :=
  ∀ (s t : State) (k : FaultKind), s.fault.kind = none → Sys2Proof.Machine.step s = .next t →
    t.fault.kind = some k →
    t.fault.pc = s.pc ∧ t.fault.opcode = (if s.pc.toNat + 1 ≤ 0xFFF then s.fetchWord else 0x0000) ∧
    OnlyChanges [.fault] s t

/-- A latched fault comes first: the step stops with it. Every step from an unfaulted state completes, with at most
one fault, each raised exactly under its own cause and in the order fetch, decode, operation; its record holds the
word fetched (0x0000 when the fetch is out of range) and the `pc`, and nothing else changes (R201 to R205, R209).
That a step which raises a fault answers a next state, and one in a latched machine the outcome `fault`, is the
form of the model's log entry 1. -/
def Obligations.EachFaultHasExactlyItsCause : Prop :=
  ∀ s : State,
    (s.fault.kind ≠ none → Sys2Proof.Machine.step s = .fault (.latched s.fault)) ∧
    (s.fault.kind = none → ∃ t, Sys2Proof.Machine.step s = .next t ∧
      (t.fault.code = 1 ↔ s.pc.toNat + 1 ≤ 0xFFF ∧ ∀ i, decode s.fetchWord ≠ .ok i) ∧
      (t.fault.code = 2 ↔
        s.pc.toNat + 1 ≤ 0xFFF ∧ s.sp.val = 16 ∧ ∃ nnn, decode s.fetchWord = .ok (.callNnn nnn)) ∧
      (t.fault.code = 3 ↔ s.pc.toNat + 1 ≤ 0xFFF ∧ s.sp.val = 0 ∧ decode s.fetchWord = .ok .ret) ∧
      (t.fault.code = 4 ↔
        s.pc.toNat + 1 > 0xFFF ∨
        (∃ x y n, decode s.fetchWord = .ok (.drwVxVyN x y n) ∧ 1 ≤ n ∧ s.i.toNat + n - 1 > 0xFFF) ∨
        (∃ x, decode s.fetchWord = .ok (.ldBVx x) ∧ s.i.toNat + 2 > 0xFFF) ∨
        (∃ x, (decode s.fetchWord = .ok (.ldMemVx x) ∨ decode s.fetchWord = .ok (.ldVxMem x)) ∧
          s.i.toNat + x.val > 0xFFF)) ∧
      (t.fault.code = 5 ↔
        s.pc.toNat + 1 ≤ 0xFFF ∧ ∃ x, (s.getV x).toNat > 15 ∧
          (decode s.fetchWord = .ok (.skpVx x) ∨ decode s.fetchWord = .ok (.sknpVx x))) ∧
      (t.fault.code ≠ 0 → OnlyChanges [.fault] s t ∧ t.fault.pc = s.pc ∧
        t.fault.opcode = if s.pc.toNat + 1 ≤ 0xFFF then s.fetchWord else 0x0000))

/-- A latched fault ends every further `execute`, which returns the same record and changes nothing; no action of
any agent but reset changes the record; the driver's ticks still count; reset clears it (R208). -/
def Obligations.AFaultIsStickyUntilReset : Prop :=
  ∀ m : Session, m.machine.fault.kind ≠ none →
    Sys2Proof.Machine.step m.machine = .fault (.latched m.machine.fault) ∧
    (∀ m', m.perform .execute = some m' → m'.machine = m.machine) ∧
    (∀ e m', m.perform e = some m' → e ≠ .reset → m'.machine.fault = m.machine.fault) ∧
    (∀ m', m.perform .timerTick = some m' → m'.machine.dt.toNat = m.machine.dt.toNat - 1 ∧
      m'.machine.st.toNat = m.machine.st.toNat - 1) ∧
    (∀ m', m.perform .reset = some m' → m'.machine.fault.kind = none)

/-! ### Whole-machine rules -/

/-- Frame: an instruction that completes changes only what its rule names as written; one that raises a fault
changes only the record (R4). Within a part too: no register but its destination and a written VF, no stack cell
but the one at SP, no byte but those stored from `effAddr s 0` on, no pixel but those of the sprite. The part
`draws`, which Cxnn may change, is the model's own, log entry 4; the premise of the memory clause is the invariant
of `EveryStepKeepsTheInvariant`. -/
def Obligations.AnInstructionChangesOnlyWhatItsRuleNames : Prop :=
  ∀ (i : Instr) (s t : State), s.fault.kind = none → Sys2Proof.Machine.exec i s = .next t →
    (t.fault.kind = none → OnlyChanges i.writes s t ∧
      (∀ r, ¬ writesRegister s r i → t.getV r = s.getV r) ∧
      (∀ k, ¬ writesCell s k i → t.cell k = s.cell k) ∧
      (Memory.wf s.mem = true → ∀ a, ¬ storesTo s a i → t.readByte a = s.readByte a) ∧
      ∀ qx qy, ¬ writesPixel s qx qy i → t.pixel qx qy = s.pixel qx qy) ∧
    (t.fault.kind ≠ none → OnlyChanges [.fault] s t)

/-- Where `pc` goes when an instruction completes: the default advance by 2 for every operation but those that
set `pc` themselves, and theirs for those (R97). -/
def Obligations.ThePcAdvancesByTwoUnlessTheOperationSetsIt : Prop :=
  ∀ (i : Instr) (s t : State), s.fault.kind = none → Sys2Proof.Machine.exec i s = .next t →
    t.fault.kind = none →
    match i with
    | .ret => ∃ k, k.val + 1 = s.sp.val ∧ t.pc = s.cell k
    | .jpNnn nnn | .callNnn nnn => t.pc.toNat = nnn.toNat
    | .jpV0Nnn nnn => t.pc.toNat = nnn.toNat + (s.getV 0).toNat
    | .seVxNn _ _ | .sneVxNn _ _ | .seVxVy _ _ | .sneVxVy _ _ | .skpVx _ | .sknpVx _ =>
        t.pc = s.pc + 4 ∨ t.pc = s.pc + 2
    | .ldVxK _ => if s.keyLatch = none then t.pc = s.pc else t.pc = s.pc + 2
    | .cls | .ldVxNn _ _ | .addVxNn _ _ | .ldVxVy _ _ | .orVxVy _ _ | .andVxVy _ _ | .xorVxVy _ _
    | .addVxVy _ _ | .subVxVy _ _ | .shrVx _ _ | .subnVxVy _ _ | .shlVx _ _ | .ldINnn _ | .rndVxNn _ _
    | .drwVxVyN _ _ _ | .ldVxDt _ | .ldDtVx _ | .ldStVx _ | .addIVx _ | .ldFVx _ | .ldBVx _
    | .ldMemVx _ | .ldVxMem _ => t.pc = s.pc + 2

/-- VF as a flag: the six operations that write it as one leave in it what the table of R22 says, and every other
operation that does not name VF as a destination leaves it as it was (R22). -/
def Obligations.VfIsWrittenAsAFlagBySixOperationsOnly : Prop :=
  ∀ (i : Instr) (s t : State), s.fault.kind = none → Sys2Proof.Machine.exec i s = .next t →
    t.fault.kind = none →
    match i with
    | .addVxVy x y => t.getV VF = if (s.getV x).toNat + (s.getV y).toNat > 255 then 1 else 0
    | .subVxVy x y => t.getV VF = if (s.getV x).toNat ≥ (s.getV y).toNat then 1 else 0
    | .subnVxVy x y => t.getV VF = if (s.getV y).toNat ≥ (s.getV x).toNat then 1 else 0
    | .shrVx x _ => t.getV VF = if (s.getV x).getLsbD 0 = true then 1 else 0
    | .shlVx x _ => t.getV VF = if (s.getV x).getLsbD 7 = true then 1 else 0
    | .drwVxVyN _ _ n => n ≤ 15 →
        ((∃ qx qy, s.pixel qx qy = true ∧ t.pixel qx qy = false) → t.getV VF = 1) ∧
        ((¬ ∃ qx qy, s.pixel qx qy = true ∧ t.pixel qx qy = false) → t.getV VF = 0)
    | .ldVxNn x _ | .addVxNn x _ | .ldVxVy x _ | .orVxVy x _ | .andVxVy x _ | .xorVxVy x _
    | .rndVxNn x _ | .ldVxDt x | .ldVxK x | .ldVxMem x => x ≠ VF → t.getV VF = s.getV VF
    | .cls | .ret | .jpNnn _ | .callNnn _ | .jpV0Nnn _ | .seVxNn _ _ | .sneVxNn _ _ | .seVxVy _ _
    | .sneVxVy _ _ | .skpVx _ | .sknpVx _ | .ldINnn _ | .addIVx _ | .ldFVx _ | .ldBVx _ | .ldMemVx _
    | .ldDtVx _ | .ldStVx _ => t.getV VF = s.getV VF

/-- The sound timer is never observed: changing it changes nothing else a step leaves (R27: "is read by no
encodable instruction"). The two runs take the same draw at Cxnn, since they start from the same counter: the
model's DESIGN CHOICE of log entry 4; R174 puts each draw under no law. -/
def Obligations.TheSoundTimerIsNeverObserved : Prop :=
  ∀ (s t : State) (b : Byte), Sys2Proof.Machine.step s = .next t →
    ∃ u, Sys2Proof.Machine.step (s.setSt b) = .next u ∧ OnlyChanges [.st] t u

/-- Stack cells at index `>= SP` keep stale values that no instruction can observe: with other values there, a
step leaves the same everywhere but in dead cells (R26). The two runs take the same draw at Cxnn, since they start
from the same counter: the model's DESIGN CHOICE of log entry 4; R174 puts each draw under no law. -/
def Obligations.DeadStackCellsAreNeverObserved : Prop :=
  ∀ (s t : State) (cells : Vector Word 16),
    (∀ k : Fin 16, k.val < s.sp.val → cells[k.val] = s.cell k) →
    Sys2Proof.Machine.step s = .next t →
    ∃ u, Sys2Proof.Machine.step { s with stack := cells } = .next u ∧ OnlyChanges [.stack] t u ∧
      ∀ k : Fin 16, k.val < t.sp.val → u.cell k = t.cell k

/-- A timer tick and an instruction that names no timer may come in either order (R2, R213: ticks interleave
freely with instructions). Of Cxnn it holds because both orders take the same draw, a tick leaving the counter
alone: the model's DESIGN CHOICE of log entry 4; R174 puts each draw under no law. -/
def Obligations.TicksCommuteWithInstructionsThatNameNoTimer : Prop :=
  ∀ (i : Instr) (s t : State), Sys2Proof.Machine.exec i s = .next t →
    (∀ x, i ≠ .ldVxDt x ∧ i ≠ .ldDtVx x ∧ i ≠ .ldStVx x) →
    Sys2Proof.Machine.exec i s.timerTick = .next t.timerTick

/-! ### Invariants -/

/-- Every step keeps the machine's invariant: memory in its canonical form (the model's own, log entry 6), `pc` at
most 0x10FE and every stack cell at most 0x1000 (an inference of R24), the fault record clear or addressing the
faulting instruction (R29, R206). -/
def Obligations.EveryStepKeepsTheInvariant : Prop :=
  ∀ s t : State, s.Inv → Sys2Proof.Machine.step s = .next t → t.Inv

/-- Every action of every agent keeps the session's invariant, the one above and: while AWAIT is 1, `pc` still
addresses the waiting Fx0A and no fault is latched (R2, R28, R35). -/
def Obligations.EveryActionKeepsTheSessionInvariant : Prop :=
  ∀ (m m' : Session) (e : Event), m.Inv → m.perform e = some m' → m'.Inv

/-- A session starts with the invariant. That every key is up there is the model's choice, log entry 5. -/
def Obligations.ASessionStartsWithTheInvariant : Prop := Session.start.Inv

/-- Memory is one thing however it was written: canonical memories that read alike at every address are equal
data. -/
def Obligations.MemoriesThatReadAlikeAreEqual : Prop :=
  ∀ m m' : Memory, Memory.wf m = true → Memory.wf m' = true →
    (∀ a, Memory.read m a = Memory.read m' a) → m = m'

/-! ### Reset, boot and the other agents (spec/70_reset_and_hazards.md, spec/60_exceptions.md) -/

/-- What reset leaves, from any state: every value R34 gives, and the key levels as they were. -/
def Obligations.ResetLeavesTheValuesOfTheSpec : Prop :=
  ∀ s : State,
    (∀ r, s.hostReset.getV r = 0) ∧ s.hostReset.pc = 0x0200 ∧
    (∀ a, a < Config.fontBase ∨ Config.fontBase + 80 ≤ a → s.hostReset.readByte a = 0) ∧
    (∀ k < 80, s.hostReset.readByte (Config.fontBase + k) = font.getD k 0) ∧
    s.hostReset.i = 0 ∧ s.hostReset.sp.val = 0 ∧ (∀ k, s.hostReset.cell k = 0) ∧
    s.hostReset.dt = 0 ∧ s.hostReset.st = 0 ∧ s.hostReset.await = false ∧
    s.hostReset.fault.code = 0 ∧ s.hostReset.fault.opcode = 0 ∧ s.hostReset.fault.pc = 0 ∧
    (∀ qx qy, s.hostReset.pixel qx qy = false) ∧ s.hostReset.keyLatch = none ∧
    (∀ k, s.hostReset.keyPressed k = s.keyPressed k)

/-- A machine started with no ROM fetches 0x0000 at 0x200 and faults (an inference the spec marks as its own, in
R232). -/
def Obligations.BootWithoutARomFaultsAtTheOrigin : Prop :=
  ∃ t, Sys2Proof.Machine.step State.reset = .next t ∧ t.fault.code = 1 ∧ t.fault.opcode = 0x0000 ∧
    t.fault.pc = 0x0200

/-- The ROM load: up to 3584 bytes copied verbatim from 0x200, a longer image refused with nothing written, and
no move to load after the first `execute` until the next reset (R231). The field `loadable` is the model's way to say
"between reset and the first execute", log entry 9. -/
def Obligations.RomLoadCopiesTheImageOrRefusesIt : Prop :=
  (∀ (s : State) (bytes : List Byte), Memory.wf s.mem = true → bytes.length ≤ 3584 →
    ∃ t, s.loadRom bytes = .loaded t ∧ Memory.wf t.mem = true ∧ OnlyChanges [.mem] s t ∧
      (∀ k, (hk : k < bytes.length) → t.readByte (0x200 + k) = bytes[k]) ∧
      ∀ a, a < 0x200 ∨ 0x200 + bytes.length ≤ a → t.readByte a = s.readByte a) ∧
  (∀ (s : State) (bytes : List Byte), 3584 < bytes.length → s.loadRom bytes = .romTooLarge) ∧
  (∀ (m : Session) (bytes : List Byte), m.loadable = true → bytes.length ≤ 3584 →
    ∃ t, m.machine.loadRom bytes = .loaded t ∧ m.perform (.loadRom bytes) = some ⟨t, true⟩) ∧
  (∀ (m : Session) (bytes : List Byte), m.loadable = true → 3584 < bytes.length →
    m.perform (.loadRom bytes) = some m) ∧
  (∀ (m : Session) (bytes : List Byte), m.loadable = false → m.perform (.loadRom bytes) = none) ∧
  (∀ m m' : Session, m.perform .execute = some m' → m'.loadable = false) ∧
  (∀ m m' : Session, m.perform .reset = some m' → m'.loadable = true)

/-- The driver's tick takes one off each timer and stops at zero, and changes nothing else; `execute` never
counts: an instruction leaves DT alone unless it is Fx15, and ST unless it is Fx18 (R213). -/
def Obligations.OnlyTheDriverCountsTheTimersDown : Prop :=
  (∀ s : State, s.timerTick.dt.toNat = (if 0 < s.dt.toNat then s.dt.toNat - 1 else 0) ∧
    s.timerTick.st.toNat = (if 0 < s.st.toNat then s.st.toNat - 1 else 0) ∧
    OnlyChanges [.dt, .st] s s.timerTick) ∧
  (∀ (i : Instr) (s t : State), Sys2Proof.Machine.exec i s = .next t →
    ((∀ x, i ≠ .ldDtVx x) → t.dt = s.dt) ∧ ((∀ x, i ≠ .ldStVx x) → t.st = s.st))

/-- `KeyEvent()` returns the latch and empties it. The keypad's side: a key that goes from up to down sets its
level and posts itself, the latest press winning; a key that goes up clears its level and leaves the latch; nothing
else changes (the reference keypad of R173). That a press of a key already down posts nothing is the model's, the
DEDUCED part of log entry 13. -/
def Obligations.TheKeypadPostsPressesAndNotReleases : Prop :=
  ∀ (s : State) (k : Key),
    (s.keyPressed k = false → (s.pressKey k).keyLatch = some k) ∧
    (s.keyPressed k = true → (s.pressKey k).keyLatch = s.keyLatch) ∧
    (∀ j, (s.pressKey k).keyPressed j = if j = k then true else s.keyPressed j) ∧
    OnlyChanges [.keys, .keyLatch] s (s.pressKey k) ∧
    (∀ j, (s.releaseKey k).keyPressed j = if j = k then false else s.keyPressed j) ∧
    OnlyChanges [.keys] s (s.releaseKey k) ∧
    s.keyEvent = s.keyLatch ∧ s.afterKeyEvent.keyEvent = none ∧ OnlyChanges [.keyLatch] s s.afterKeyEvent

/-! ### Load, arithmetic, logic and shift (spec/41_load_arith_logic.md) -/

/-- Loads and logic, and the add without a flag: one register written, VF only as a destination; `pc + 2`
(R130 to R135). -/
def Obligations.LoadsAddImmediateAndLogicWriteOneRegister : Prop :=
  ∀ (x y : Reg) (nn : Byte) (s : State),
    ((encode (.ldVxNn x nn)).toNat = 0x6000 + x.val * 256 + nn.toNat ∧
      ∃ t, Sys2Proof.Machine.exec (.ldVxNn x nn) s = .next t ∧ t.pc = s.pc + 2 ∧
        (∀ r, t.getV r = if r = x then nn else s.getV r) ∧ OnlyChanges [.v, .pc] s t) ∧
    ((encode (.addVxNn x nn)).toNat = 0x7000 + x.val * 256 + nn.toNat ∧
      ∃ t, Sys2Proof.Machine.exec (.addVxNn x nn) s = .next t ∧ t.pc = s.pc + 2 ∧
        (t.getV x).toNat = ((s.getV x).toNat + nn.toNat) % 256 ∧
        (∀ r, r ≠ x → t.getV r = s.getV r) ∧ OnlyChanges [.v, .pc] s t) ∧
    ((encode (.ldVxVy x y)).toNat = 0x8000 + x.val * 256 + y.val * 16 ∧
      ∃ t, Sys2Proof.Machine.exec (.ldVxVy x y) s = .next t ∧ t.pc = s.pc + 2 ∧
        (∀ r, t.getV r = if r = x then s.getV y else s.getV r) ∧ OnlyChanges [.v, .pc] s t) ∧
    ((encode (.orVxVy x y)).toNat = 0x8001 + x.val * 256 + y.val * 16 ∧
      ∃ t, Sys2Proof.Machine.exec (.orVxVy x y) s = .next t ∧ t.pc = s.pc + 2 ∧
        (∀ r, t.getV r = if r = x then s.getV x ||| s.getV y else s.getV r) ∧
        OnlyChanges [.v, .pc] s t) ∧
    ((encode (.andVxVy x y)).toNat = 0x8002 + x.val * 256 + y.val * 16 ∧
      ∃ t, Sys2Proof.Machine.exec (.andVxVy x y) s = .next t ∧ t.pc = s.pc + 2 ∧
        (∀ r, t.getV r = if r = x then s.getV x &&& s.getV y else s.getV r) ∧
        OnlyChanges [.v, .pc] s t) ∧
    ((encode (.xorVxVy x y)).toNat = 0x8003 + x.val * 256 + y.val * 16 ∧
      ∃ t, Sys2Proof.Machine.exec (.xorVxVy x y) s = .next t ∧ t.pc = s.pc + 2 ∧
        (∀ r, t.getV r = if r = x then s.getV x ^^^ s.getV y else s.getV r) ∧
        OnlyChanges [.v, .pc] s t)

/-- Add with carry: VF takes the carry out, also when it is the destination; the sum wraps (R136, R5). -/
def Obligations.AddWritesTheWrappedSumThenTheCarry : Prop :=
  ∀ (x y : Reg) (s : State), (encode (.addVxVy x y)).toNat = 0x8004 + x.val * 256 + y.val * 16 ∧
    ∃ t, Sys2Proof.Machine.exec (.addVxVy x y) s = .next t ∧ t.pc = s.pc + 2 ∧
      (t.getV VF).toNat = (if (s.getV x).toNat + (s.getV y).toNat > 255 then 1 else 0) ∧
      (x ≠ VF → (t.getV x).toNat = ((s.getV x).toNat + (s.getV y).toNat) % 256) ∧
      (∀ r, r ≠ x → r ≠ VF → t.getV r = s.getV r) ∧ OnlyChanges [.v, .pc] s t

/-- Subtract and reverse subtract: the wrapped difference, then VF := 1 when the minuend is at least the
subtrahend (R137, R139, R5). -/
def Obligations.SubtractsWriteTheWrappedDifferenceThenNotBorrow : Prop :=
  ∀ (x y : Reg) (s : State),
    ((encode (.subVxVy x y)).toNat = 0x8005 + x.val * 256 + y.val * 16 ∧
      ∃ t, Sys2Proof.Machine.exec (.subVxVy x y) s = .next t ∧ t.pc = s.pc + 2 ∧
        (t.getV VF).toNat = (if (s.getV x).toNat ≥ (s.getV y).toNat then 1 else 0) ∧
        (x ≠ VF → (t.getV x).toNat = if (s.getV x).toNat ≥ (s.getV y).toNat then
          (s.getV x).toNat - (s.getV y).toNat else (s.getV x).toNat + 256 - (s.getV y).toNat) ∧
        (∀ r, r ≠ x → r ≠ VF → t.getV r = s.getV r) ∧ OnlyChanges [.v, .pc] s t) ∧
    ((encode (.subnVxVy x y)).toNat = 0x8007 + x.val * 256 + y.val * 16 ∧
      ∃ t, Sys2Proof.Machine.exec (.subnVxVy x y) s = .next t ∧ t.pc = s.pc + 2 ∧
        (t.getV VF).toNat = (if (s.getV y).toNat ≥ (s.getV x).toNat then 1 else 0) ∧
        (x ≠ VF → (t.getV x).toNat = if (s.getV y).toNat ≥ (s.getV x).toNat then
          (s.getV y).toNat - (s.getV x).toNat else (s.getV y).toNat + 256 - (s.getV x).toNat) ∧
        (∀ r, r ≠ x → r ≠ VF → t.getV r = s.getV r) ∧ OnlyChanges [.v, .pc] s t)

/-- Shifts: `V[x]` moved by one bit, the lost bit to VF; `y` selects nothing, so `V[y]` is neither read nor
written (R138, R140, R5, R93). -/
def Obligations.ShiftsMoveVxByOneBitAndIgnoreY : Prop :=
  ∀ (x y : Reg) (s : State),
    ((encode (.shrVx x y)).toNat = 0x8006 + x.val * 256 + y.val * 16 ∧
      ∃ t, (∀ y', Sys2Proof.Machine.exec (.shrVx x y') s = .next t) ∧ t.pc = s.pc + 2 ∧
        (t.getV VF).toNat = (s.getV x).toNat % 2 ∧ (x ≠ VF → (t.getV x).toNat = (s.getV x).toNat / 2) ∧
        (∀ r, r ≠ x → r ≠ VF → t.getV r = s.getV r) ∧ OnlyChanges [.v, .pc] s t) ∧
    ((encode (.shlVx x y)).toNat = 0x800E + x.val * 256 + y.val * 16 ∧
      ∃ t, (∀ y', Sys2Proof.Machine.exec (.shlVx x y') s = .next t) ∧ t.pc = s.pc + 2 ∧
        (t.getV VF).toNat = (s.getV x).toNat / 128 ∧
        (x ≠ VF → (t.getV x).toNat = (s.getV x).toNat * 2 % 256) ∧
        (∀ r, r ≠ x → r ≠ VF → t.getV r = s.getV r) ∧ OnlyChanges [.v, .pc] s t)

/-! ### Control transfer (spec/40_control_flow.md) -/

/-- The four register skips: `pc + 4` when the condition holds, `pc + 2` otherwise, and nothing else; 5xyn and 9xyn
with another `n` are no instructions (R113 to R116). -/
def Obligations.RegisterSkipsAddFourOrTwo : Prop :=
  ∀ (x y : Reg) (nn : Byte) (s : State),
    ((encode (.seVxNn x nn)).toNat = 0x3000 + x.val * 256 + nn.toNat ∧
      ∃ t, Sys2Proof.Machine.exec (.seVxNn x nn) s = .next t ∧ OnlyChanges [.pc] s t ∧
        (s.getV x = nn → t.pc = s.pc + 4) ∧ (s.getV x ≠ nn → t.pc = s.pc + 2)) ∧
    ((encode (.sneVxNn x nn)).toNat = 0x4000 + x.val * 256 + nn.toNat ∧
      ∃ t, Sys2Proof.Machine.exec (.sneVxNn x nn) s = .next t ∧ OnlyChanges [.pc] s t ∧
        (s.getV x ≠ nn → t.pc = s.pc + 4) ∧ (s.getV x = nn → t.pc = s.pc + 2)) ∧
    ((encode (.seVxVy x y)).toNat = 0x5000 + x.val * 256 + y.val * 16 ∧
      ∃ t, Sys2Proof.Machine.exec (.seVxVy x y) s = .next t ∧ OnlyChanges [.pc] s t ∧
        (s.getV x = s.getV y → t.pc = s.pc + 4) ∧ (s.getV x ≠ s.getV y → t.pc = s.pc + 2)) ∧
    ((encode (.sneVxVy x y)).toNat = 0x9000 + x.val * 256 + y.val * 16 ∧
      ∃ t, Sys2Proof.Machine.exec (.sneVxVy x y) s = .next t ∧ OnlyChanges [.pc] s t ∧
        (s.getV x ≠ s.getV y → t.pc = s.pc + 4) ∧ (s.getV x = s.getV y → t.pc = s.pc + 2)) ∧
    ∀ w : Word, (w.toNat / 0x1000 = 5 ∨ w.toNat / 0x1000 = 9) → w.toNat % 16 ≠ 0 →
      decode w = .error (.undefinedOpcode w)

/-- The two jumps set `pc` alone; the offset jump adds V0 without reducing the sum. The target is not checked: one
that cannot be fetched faults at the next step (R111, R117). -/
def Obligations.JumpsSetThePcAndNothingElse : Prop :=
  ∀ (nnn : Addr) (s : State),
    ((encode (.jpNnn nnn)).toNat = 0x1000 + nnn.toNat ∧
      ∃ t, Sys2Proof.Machine.exec (.jpNnn nnn) s = .next t ∧ t.pc.toNat = nnn.toNat ∧
        OnlyChanges [.pc] s t ∧
        (s.fault.kind = none → t.pc.toNat > 0xFFE →
          ∃ u, Sys2Proof.Machine.step t = .next u ∧ u.fault = ⟨some .addressOutOfRange, 0x0000, t.pc⟩)) ∧
    ((encode (.jpV0Nnn nnn)).toNat = 0xB000 + nnn.toNat ∧
      ∃ t, Sys2Proof.Machine.exec (.jpV0Nnn nnn) s = .next t ∧
        t.pc.toNat = nnn.toNat + (s.getV 0).toNat ∧ OnlyChanges [.pc] s t ∧
        (s.fault.kind = none → t.pc.toNat > 0xFFE →
          ∃ u, Sys2Proof.Machine.step t = .next u ∧ u.fault = ⟨some .addressOutOfRange, 0x0000, t.pc⟩))

/-- Call: with room on the stack the return address `pc + 2` goes to `STACK[SP]`, SP grows by one and `pc` is the
target; with 16 entries StackOverflow is raised and nothing is pushed (R112). -/
def Obligations.CallPushesTheReturnAddressOrOverflows : Prop :=
  ∀ (nnn : Addr) (s : State), (encode (.callNnn nnn)).toNat = 0x2000 + nnn.toNat ∧
    (s.sp.val < 16 → ∃ t, Sys2Proof.Machine.exec (.callNnn nnn) s = .next t ∧
      (∀ k, t.cell k = if k.val = s.sp.val then s.pc + 2 else s.cell k) ∧ t.sp.val = s.sp.val + 1 ∧
      t.pc.toNat = nnn.toNat ∧ OnlyChanges [.stack, .sp, .pc] s t) ∧
    (s.sp.val = 16 → Raises (.callNnn nnn) s .stackOverflow)

/-- Return: with an entry on the stack SP shrinks by one and `pc` is the cell at the new SP, the cells keeping
their values; with none StackUnderflow is raised (R110). -/
def Obligations.ReturnPopsThePcOrUnderflows : Prop :=
  ∀ s : State, (encode .ret).toNat = 0x00EE ∧
    (0 < s.sp.val → ∃ t, Sys2Proof.Machine.exec .ret s = .next t ∧ t.sp.val = s.sp.val - 1 ∧
      (∀ k, k.val = t.sp.val → t.pc = s.cell k) ∧ OnlyChanges [.sp, .pc] s t) ∧
    (s.sp.val = 0 → Raises .ret s .stackUnderflow)

/-- A return after a call comes back behind the call with the stack as deep as before (R26, R110, R112). -/
def Obligations.ReturnComesBackBehindTheCall : Prop :=
  ∀ (nnn : Addr) (s : State), s.sp.val < 16 →
    ∃ t u, Sys2Proof.Machine.exec (.callNnn nnn) s = .next t ∧ Sys2Proof.Machine.exec .ret t = .next u ∧
      u.pc = s.pc + 2 ∧ OnlyChanges [.pc, .stack] s u ∧
      ∀ k, k.val ≠ s.sp.val → u.cell k = s.cell k

/-- The end of a run, a jump to itself, changes no state, not even `pc` (R111, R237). -/
def Obligations.AJumpToItselfChangesNothing : Prop :=
  ∀ s : State, s.ended = true → Sys2Proof.Machine.step s = .next s

/-- A run that has ended stays ended: any number of further steps completes without a fault (R237). That an ended
run is a jump to itself is the spec's convention D30, no property of the hardware. -/
def Obligations.AnEndedRunIsSafeForEver : Prop := ∀ (s : State) (k : Nat), s.ended = true → SafeRun k s

/-! ### Index register and memory (spec/42_index_memory.md) -/

/-- The three that write I: `nnn`; the sum modulo 2^16; the glyph of the low nibble (R150 to R152). -/
def Obligations.TheIndexRegisterIsSet : Prop :=
  ∀ (nnn : Addr) (x : Reg) (s : State),
    ((encode (.ldINnn nnn)).toNat = 0xA000 + nnn.toNat ∧
      ∃ t, Sys2Proof.Machine.exec (.ldINnn nnn) s = .next t ∧ t.i.toNat = nnn.toNat ∧ t.pc = s.pc + 2 ∧
        OnlyChanges [.i, .pc] s t) ∧
    ((encode (.addIVx x)).toNat = 0xF01E + x.val * 256 ∧
      ∃ t, Sys2Proof.Machine.exec (.addIVx x) s = .next t ∧
        t.i.toNat = (s.i.toNat + (s.getV x).toNat) % 2 ^ 16 ∧ t.pc = s.pc + 2 ∧
        OnlyChanges [.i, .pc] s t) ∧
    ((encode (.ldFVx x)).toNat = 0xF029 + x.val * 256 ∧
      ∃ t, Sys2Proof.Machine.exec (.ldFVx x) s = .next t ∧
        t.i.toNat = Config.fontBase + 5 * ((s.getV x).toNat % 16) ∧ t.pc = s.pc + 2 ∧
        OnlyChanges [.i, .pc] s t)

/-- While the font is as reset left it, Fx29 points I at the five bytes of the glyph (R62, R152). -/
def Obligations.LoadFontAddressPointsAtTheGlyph : Prop :=
  ∀ (x : Reg) (s : State), (∀ k < 80, s.readByte (Config.fontBase + k) = font.getD k 0) →
    ∃ t, Sys2Proof.Machine.exec (.ldFVx x) s = .next t ∧
      ∀ r < 5, spriteRow t r = font.getD (5 * ((s.getV x).toNat % 16) + r) 0

/-- BCD: the hundreds, tens and ones digits at I, I+1, I+2, and no other byte; out of range nothing is written
(R153). -/
def Obligations.BcdStoresThreeDigitsOrFaults : Prop :=
  ∀ (x : Reg) (s : State), Memory.wf s.mem = true →
    (encode (.ldBVx x)).toNat = 0xF033 + x.val * 256 ∧
    (s.i.toNat + 2 ≤ 0xFFF → ∃ t, Sys2Proof.Machine.exec (.ldBVx x) s = .next t ∧ t.pc = s.pc + 2 ∧
      (t.readByte (effAddr s 0)).toNat = (s.getV x).toNat / 100 ∧
      (t.readByte (effAddr s 1)).toNat = (s.getV x).toNat / 10 % 10 ∧
      (t.readByte (effAddr s 2)).toNat = (s.getV x).toNat % 10 ∧
      (∀ a, a < effAddr s 0 ∨ effAddr s 0 + 3 ≤ a → t.readByte a = s.readByte a) ∧
      OnlyChanges [.mem, .pc] s t) ∧
    (s.i.toNat + 2 > 0xFFF → Raises (.ldBVx x) s .addressOutOfRange)

/-- Store registers: V0..Vx, inclusive, at I upward, and no other byte; out of range nothing is written
(R154). -/
def Obligations.StoreRegistersStoresTheInclusiveRangeOrFaults : Prop :=
  ∀ (x : Reg) (s : State), Memory.wf s.mem = true →
    (encode (.ldMemVx x)).toNat = 0xF055 + x.val * 256 ∧
    (s.i.toNat + x.val ≤ 0xFFF → ∃ t, Sys2Proof.Machine.exec (.ldMemVx x) s = .next t ∧ t.pc = s.pc + 2 ∧
      (∀ r : Reg, r.val ≤ x.val → t.readByte (effAddr s r.val) = s.getV r) ∧
      (∀ a, a < effAddr s 0 ∨ effAddr s 0 + (x.val + 1) ≤ a → t.readByte a = s.readByte a) ∧
      OnlyChanges [.mem, .pc] s t) ∧
    (s.i.toNat + x.val > 0xFFF → Raises (.ldMemVx x) s .addressOutOfRange)

/-- Load registers: V0..Vx, inclusive, from I upward, registers above x and I unchanged; out of range nothing is
written (R155). -/
def Obligations.LoadRegistersLoadsTheInclusiveRangeOrFaults : Prop :=
  ∀ (x : Reg) (s : State), (encode (.ldVxMem x)).toNat = 0xF065 + x.val * 256 ∧
    (s.i.toNat + x.val ≤ 0xFFF → ∃ t, Sys2Proof.Machine.exec (.ldVxMem x) s = .next t ∧ t.pc = s.pc + 2 ∧
      (∀ r : Reg, t.getV r = if r.val ≤ x.val then s.readByte (effAddr s r.val) else s.getV r) ∧
      OnlyChanges [.v, .pc] s t) ∧
    (s.i.toNat + x.val > 0xFFF → Raises (.ldVxMem x) s .addressOutOfRange)

/-- Store then load brings the registers back (R154, R155; spec/95_test_vectors.md 2.5, vector 22). -/
def Obligations.StoreThenLoadKeepsTheRegisters : Prop :=
  ∀ (x : Reg) (s : State), Memory.wf s.mem = true → s.i.toNat + x.val ≤ 0xFFF →
    ∃ t u, Sys2Proof.Machine.exec (.ldMemVx x) s = .next t ∧ Sys2Proof.Machine.exec (.ldVxMem x) t = .next u ∧
      u.pc = s.pc + 4 ∧ OnlyChanges [.mem, .pc] s u ∧ ∀ a, u.readByte a = t.readByte a

/-- A store is seen by the very next fetch: bytes stored over the next instruction are the instruction (R61). -/
def Obligations.AStoreIsSeenByTheNextFetch : Prop :=
  ∀ (x j k : Reg) (s : State), Memory.wf s.mem = true → s.i.toNat + x.val ≤ 0xFFF →
    k.val = j.val + 1 → k.val ≤ x.val → (s.pc + 2).toNat = s.i.toNat + j.val →
    ∃ t, Sys2Proof.Machine.exec (.ldMemVx x) s = .next t ∧
      t.fetchWord.toNat = (s.getV j).toNat * 256 + (s.getV k).toNat

/-! ### Peripheral input and output (spec/43_peripheral_io.md) -/

/-- Clear display: every pixel 0, VF and everything else as it was, `pc + 2` (R175, R170). -/
def Obligations.ClearDisplayZeroesEveryPixel : Prop :=
  ∀ s : State, (encode .cls).toNat = 0x00E0 ∧
    ∃ t, Sys2Proof.Machine.exec .cls s = .next t ∧ (∀ qx qy, t.pixel qx qy = false) ∧ t.pc = s.pc + 2 ∧
      OnlyChanges [.fb, .pc] s t

/-- Draw: each pixel of the sprite is toggled and no other, with wraparound on both axes; VF is 1 when a set
pixel was cleared and 0 otherwise, also for n = 0; coordinates are read before VF is written; out of range
nothing is drawn (R177, R171). That n = 0 clears VF the spec marks as its own inference: "always written, also when
`n = 0`". -/
def Obligations.DrawTogglesTheSpriteAndReportsTheCollision : Prop :=
  ∀ (x y : Reg) (n : Nat) (s : State), n ≤ 15 →
    (encode (.drwVxVyN x y n)).toNat = 0xD000 + x.val * 256 + y.val * 16 + n ∧
    (n = 0 ∨ s.i.toNat + n - 1 ≤ 0xFFF →
      ∃ t, Sys2Proof.Machine.exec (.drwVxVyN x y n) s = .next t ∧ t.pc = s.pc + 2 ∧
        (∀ qx qy, spriteHas (s.getV x).toNat (s.getV y).toNat n (spriteRow s) qx qy →
          t.pixel qx qy = !s.pixel qx qy) ∧
        (∀ qx qy, ¬ spriteHas (s.getV x).toNat (s.getV y).toNat n (spriteRow s) qx qy →
          t.pixel qx qy = s.pixel qx qy) ∧
        (t.getV VF = 0 ∨ t.getV VF = 1) ∧
        (t.getV VF = 1 ↔ ∃ qx qy, s.pixel qx qy = true ∧ t.pixel qx qy = false) ∧
        (∀ r, r ≠ VF → t.getV r = s.getV r) ∧ OnlyChanges [.fb, .v, .pc] s t) ∧
    (n ≠ 0 → s.i.toNat + n - 1 > 0xFFF → Raises (.drwVxVyN x y n) s .addressOutOfRange)

/-- Drawing the same sprite twice brings the screen back, and the second draw reports a collision exactly when
some pixel of the sprite was clear at first (R177's example; x and y other than VF, which the first draw
writes). -/
def Obligations.DrawingTwiceRestoresTheScreen : Prop :=
  ∀ (x y : Reg) (n : Nat) (s : State), n ≤ 15 → x ≠ VF → y ≠ VF →
    (n = 0 ∨ s.i.toNat + n - 1 ≤ 0xFFF) →
    ∃ t u, Sys2Proof.Machine.exec (.drwVxVyN x y n) s = .next t ∧
      Sys2Proof.Machine.exec (.drwVxVyN x y n) t = .next u ∧
      (∀ qx qy, u.pixel qx qy = s.pixel qx qy) ∧
      (u.getV VF = 1 ↔ ∃ qx qy, spriteHas (s.getV x).toNat (s.getV y).toNat n (spriteRow s) qx qy ∧
        s.pixel qx qy = false)

/-- Random: the draw AND nn, for whatever byte the source hands out; the next draw is a fresh one (R176, R174).
The counter of draws is the model's own, log entry 4, and the byte is a free value: this says nothing of it. -/
def Obligations.RandomIsADrawMaskedByNn : Prop :=
  ∀ (x : Reg) (nn : Byte) (s : State), (encode (.rndVxNn x nn)).toNat = 0xC000 + x.val * 256 + nn.toNat ∧
    ∃ t, Sys2Proof.Machine.exec (.rndVxNn x nn) s = .next t ∧ t.pc = s.pc + 2 ∧
      (∀ r, t.getV r = if r = x then Config.randomByte s.draws &&& nn else s.getV r) ∧
      (∀ b, nn.getLsbD b = false → (t.getV x).getLsbD b = false) ∧ t.draws = s.draws + 1 ∧
      OnlyChanges [.v, .draws, .pc] s t

/-- The two key skips: the level of the key numbered by `V[x]`, for 0..15; above 15 KeyIndexOutOfRange is raised
(R178, R179, R172). -/
def Obligations.KeySkipsTestTheLevelOrFault : Prop :=
  ∀ (x : Reg) (s : State),
    (encode (.skpVx x)).toNat = 0xE09E + x.val * 256 ∧ (encode (.sknpVx x)).toNat = 0xE0A1 + x.val * 256 ∧
    (∀ k : Key, (s.getV x).toNat = k.val →
      (∃ t, Sys2Proof.Machine.exec (.skpVx x) s = .next t ∧ OnlyChanges [.pc] s t ∧
        t.pc = if s.keyPressed k = true then s.pc + 4 else s.pc + 2) ∧
      (∃ t, Sys2Proof.Machine.exec (.sknpVx x) s = .next t ∧ OnlyChanges [.pc] s t ∧
        t.pc = if s.keyPressed k = true then s.pc + 2 else s.pc + 4)) ∧
    ((s.getV x).toNat > 15 → Raises (.skpVx x) s .keyIndexOutOfRange ∧ Raises (.sknpVx x) s .keyIndexOutOfRange)

/-- Wait for a key: without an event AWAIT is set and nothing else changes, `pc` among it; with one, `V[x]` takes
the key, the event is consumed, AWAIT is cleared and `pc` advances (R181, R173). -/
def Obligations.WaitForKeyPollsOnce : Prop :=
  ∀ (x : Reg) (s : State), (encode (.ldVxK x)).toNat = 0xF00A + x.val * 256 ∧
    (s.keyLatch = none → ∃ t, Sys2Proof.Machine.exec (.ldVxK x) s = .next t ∧ t.await = true ∧
      OnlyChanges [.await] s t) ∧
    (∀ k, s.keyLatch = some k → ∃ t, Sys2Proof.Machine.exec (.ldVxK x) s = .next t ∧
      (t.getV x).toNat = k.val ∧ (∀ r, r ≠ x → t.getV r = s.getV r) ∧ t.keyLatch = none ∧
      t.await = false ∧ t.pc = s.pc + 2 ∧ OnlyChanges [.v, .keyLatch, .await, .pc] s t)

/-- A driver that keeps calling `execute` while the machine waits and no key has come changes nothing, so that
calling and not calling reach the same states (R215, R28). -/
def Obligations.PollingWhileWaitingChangesNothing : Prop :=
  ∀ s : State, s.awaitsAtWait → s.await = true → s.keyLatch = none → Sys2Proof.Machine.step s = .next s

/-- The timer instructions: DT read and written, ST written (R180, R182, R183). -/
def Obligations.TimerInstructionsMoveOneByte : Prop :=
  ∀ (x : Reg) (s : State),
    ((encode (.ldVxDt x)).toNat = 0xF007 + x.val * 256 ∧
      ∃ t, Sys2Proof.Machine.exec (.ldVxDt x) s = .next t ∧ t.pc = s.pc + 2 ∧
        (∀ r, t.getV r = if r = x then s.dt else s.getV r) ∧ OnlyChanges [.v, .pc] s t) ∧
    ((encode (.ldDtVx x)).toNat = 0xF015 + x.val * 256 ∧
      ∃ t, Sys2Proof.Machine.exec (.ldDtVx x) s = .next t ∧ t.pc = s.pc + 2 ∧ t.dt = s.getV x ∧
        OnlyChanges [.dt, .pc] s t) ∧
    ((encode (.ldStVx x)).toNat = 0xF018 + x.val * 256 ∧
      ∃ t, Sys2Proof.Machine.exec (.ldStVx x) s = .next t ∧ t.pc = s.pc + 2 ∧ t.st = s.getV x ∧
        OnlyChanges [.st, .pc] s t)
end

