-- ==== Sys2Proof/Laws/Decode.lean ====
section
/-!
SUPPORT. The fields of an encoded word as numbers (spec/30_encoding.md R81, R82): each field of a format reads
back, and a word is put together from its fields.
-/

namespace Sys2Proof

/-! ### Formats and fields as numbers -/

/-- Concatenation is addition of the shifted high part. -/
theorem toNat_append_eq {m n : Nat} (a : BitVec m) (b : BitVec n) :
    (a ++ b).toNat = a.toNat * 2 ^ n + b.toNat := by
  rw [BitVec.toNat_append, ← Nat.shiftLeft_add_eq_or_of_lt b.isLt, Nat.shiftLeft_eq]

theorem toNat_formatXYN (op n : BitVec 4) (x y : Reg) :
    (formatXYN op x y n).toNat = op.toNat * 4096 + x.val * 256 + y.val * 16 + n.toNat := by
  unfold formatXYN
  simp only [toNat_append_eq, BitVec.toNat_ofFin]
  omega

theorem toNat_formatXNN (op : BitVec 4) (x : Reg) (nn : Byte) :
    (formatXNN op x nn).toNat = op.toNat * 4096 + x.val * 256 + nn.toNat := by
  unfold formatXNN
  simp only [toNat_append_eq, BitVec.toNat_ofFin]
  omega

theorem toNat_formatNNN (op : BitVec 4) (nnn : Addr) :
    (formatNNN op nnn).toNat = op.toNat * 4096 + nnn.toNat := by
  unfold formatNNN
  simp only [toNat_append_eq]
  omega

theorem toNat_opField (w : Word) : (opField w).toNat = w.toNat / 4096 % 16 := by
  simp [opField, BitVec.extractLsb'_toNat, Nat.shiftRight_eq_div_pow]

theorem val_xField (w : Word) : (xField w).val = w.toNat / 256 % 16 := by
  rw [xField, BitVec.val_toFin, BitVec.extractLsb'_toNat, Nat.shiftRight_eq_div_pow]

theorem val_yField (w : Word) : (yField w).val = w.toNat / 16 % 16 := by
  rw [yField, BitVec.val_toFin, BitVec.extractLsb'_toNat, Nat.shiftRight_eq_div_pow]

theorem toNat_nField (w : Word) : (nField w).toNat = w.toNat % 16 := by
  simp [nField, BitVec.extractLsb'_toNat]

theorem toNat_nnField (w : Word) : (nnField w).toNat = w.toNat % 256 := by
  simp [nnField, BitVec.extractLsb'_toNat]

theorem toNat_nnnField (w : Word) : (nnnField w).toNat = w.toNat % 4096 := by
  simp [nnnField, BitVec.extractLsb'_toNat]

/-! ### Each field of a format reads back -/

@[simp] theorem opField_formatXYN (op n : BitVec 4) (x y : Reg) : opField (formatXYN op x y n) = op := by
  have := op.isLt; have := n.isLt; have := x.isLt; have := y.isLt
  apply BitVec.eq_of_toNat_eq
  rw [toNat_opField, toNat_formatXYN]
  omega

@[simp] theorem xField_formatXYN (op n : BitVec 4) (x y : Reg) : xField (formatXYN op x y n) = x := by
  have := op.isLt; have := n.isLt; have := x.isLt; have := y.isLt
  apply Fin.eq_of_val_eq
  rw [val_xField, toNat_formatXYN]
  omega

@[simp] theorem yField_formatXYN (op n : BitVec 4) (x y : Reg) : yField (formatXYN op x y n) = y := by
  have := op.isLt; have := n.isLt; have := x.isLt; have := y.isLt
  apply Fin.eq_of_val_eq
  rw [val_yField, toNat_formatXYN]
  omega

@[simp] theorem nField_formatXYN (op n : BitVec 4) (x y : Reg) : nField (formatXYN op x y n) = n := by
  have := op.isLt; have := n.isLt; have := x.isLt; have := y.isLt
  apply BitVec.eq_of_toNat_eq
  rw [toNat_nField, toNat_formatXYN]
  omega

@[simp] theorem opField_formatXNN (op : BitVec 4) (x : Reg) (nn : Byte) : opField (formatXNN op x nn) = op := by
  have := op.isLt; have := nn.isLt; have := x.isLt
  apply BitVec.eq_of_toNat_eq
  rw [toNat_opField, toNat_formatXNN]
  omega

@[simp] theorem xField_formatXNN (op : BitVec 4) (x : Reg) (nn : Byte) : xField (formatXNN op x nn) = x := by
  have := op.isLt; have := nn.isLt; have := x.isLt
  apply Fin.eq_of_val_eq
  rw [val_xField, toNat_formatXNN]
  omega

@[simp] theorem nnField_formatXNN (op : BitVec 4) (x : Reg) (nn : Byte) : nnField (formatXNN op x nn) = nn := by
  have := op.isLt; have := nn.isLt; have := x.isLt
  apply BitVec.eq_of_toNat_eq
  rw [toNat_nnField, toNat_formatXNN]
  omega

@[simp] theorem opField_formatNNN (op : BitVec 4) (nnn : Addr) : opField (formatNNN op nnn) = op := by
  have := op.isLt; have := nnn.isLt
  apply BitVec.eq_of_toNat_eq
  rw [toNat_opField, toNat_formatNNN]
  omega

@[simp] theorem nnnField_formatNNN (op : BitVec 4) (nnn : Addr) : nnnField (formatNNN op nnn) = nnn := by
  have := op.isLt; have := nnn.isLt
  apply BitVec.eq_of_toNat_eq
  rw [toNat_nnnField, toNat_formatNNN]
  omega

/-! ### A word is put together from its fields -/

theorem eq_formatNNN (w : Word) : w = formatNNN (opField w) (nnnField w) := by
  have := w.isLt
  apply BitVec.eq_of_toNat_eq
  rw [toNat_formatNNN, toNat_opField, toNat_nnnField]
  omega

theorem eq_formatXNN (w : Word) : w = formatXNN (opField w) (xField w) (nnField w) := by
  have := w.isLt
  apply BitVec.eq_of_toNat_eq
  rw [toNat_formatXNN, toNat_opField, toNat_nnField, val_xField]
  omega

theorem eq_formatXYN (w : Word) : w = formatXYN (opField w) (xField w) (yField w) (nField w) := by
  have := w.isLt
  apply BitVec.eq_of_toNat_eq
  rw [toNat_formatXYN, toNat_opField, toNat_nField, val_xField, val_yField]
  omega

/-! ### Bytes and words (R54) -/

theorem toNat_wordOfBytes (hi lo : Byte) : (wordOfBytes hi lo).toNat = hi.toNat * 256 + lo.toNat := by
  unfold wordOfBytes
  simp only [toNat_append_eq]
  omega

theorem toNat_highByte (w : Word) : (highByte w).toNat = w.toNat / 256 := by
  have := w.isLt
  rw [highByte, BitVec.extractLsb'_toNat, Nat.shiftRight_eq_div_pow]
  omega

theorem toNat_lowByte (w : Word) : (lowByte w).toNat = w.toNat % 256 := by
  simp [lowByte, BitVec.extractLsb'_toNat]

@[simp] theorem wordOfBytes_high_low (w : Word) : wordOfBytes (highByte w) (lowByte w) = w := by
  apply BitVec.eq_of_toNat_eq
  rw [toNat_wordOfBytes, toNat_highByte, toNat_lowByte]
  omega

@[simp] theorem highByte_wordOfBytes (hi lo : Byte) : highByte (wordOfBytes hi lo) = hi := by
  have := lo.isLt
  apply BitVec.eq_of_toNat_eq
  rw [toNat_highByte, toNat_wordOfBytes]
  omega

@[simp] theorem lowByte_wordOfBytes (hi lo : Byte) : lowByte (wordOfBytes hi lo) = lo := by
  have := lo.isLt
  apply BitVec.eq_of_toNat_eq
  rw [toNat_lowByte, toNat_wordOfBytes]
  omega

/-! ### The masks of the table, as numbers -/

/-- Two bytes masked apart. -/
theorem toNat_and_split (w : Word) (a b : Nat) (hb : b < 256) :
    w.toNat &&& (a * 256 + b) = (w.toNat / 256 &&& a) * 256 + (w.toNat % 256 &&& b) := by
  have h1 : a * 256 + b = a <<< 8 ||| b := by
    rw [← Nat.shiftLeft_add_eq_or_of_lt (by omega), Nat.shiftLeft_eq]
  have h2 : w.toNat = (w.toNat / 256) <<< 8 ||| w.toNat % 256 := by
    rw [← Nat.shiftLeft_add_eq_or_of_lt (by omega), Nat.shiftLeft_eq]
    omega
  have h3 : (w.toNat % 256 &&& b) < 2 ^ 8 := Nat.lt_of_le_of_lt Nat.and_le_right hb
  have h4 : (w.toNat / 256 &&& a) * 256 = (w.toNat / 256 &&& a) <<< 8 := by
    rw [Nat.shiftLeft_eq]
  rw [h4, Nat.shiftLeft_add_eq_or_of_lt h3]
  apply Nat.eq_of_testBit_eq
  intro i
  rw [h1]
  conv_lhs => rw [h2]
  simp only [Nat.testBit_and, Nat.testBit_or, Nat.testBit_shiftLeft]
  have hlow : ∀ c < 256, 8 ≤ i → c.testBit i = false := fun c hc hi =>
    Nat.testBit_lt_two_pow (Nat.lt_of_lt_of_le hc (Nat.pow_le_pow_right (n := 2) (by decide) hi))
  by_cases hi : 8 ≤ i
  · simp [hi, hlow b hb hi, hlow (w.toNat % 256) (by omega) hi]
  · simp [hi]

set_option maxRecDepth 4000 in
theorem and_F0 : ∀ b < 256, b &&& 0xF0 = b / 16 * 16 := by decide

theorem and_0F (b : Nat) : b &&& 0x0F = b % 16 := Nat.and_two_pow_sub_one_eq_mod b 4

theorem and_FF {b : Nat} (h : b < 256) : b &&& 0xFF = b := by
  rw [show (0xFF : Nat) = 2 ^ 8 - 1 from rfl, Nat.and_two_pow_sub_one_eq_mod]
  omega

/-- Mask 0xF000 keeps the tag. -/
theorem toNat_and_F000 (w : Word) : (w &&& 0xF000).toNat = w.toNat / 4096 * 4096 := by
  have := w.isLt
  rw [BitVec.toNat_and, show (0xF000 : Word).toNat = 0xF0 * 256 + 0 from rfl,
    toNat_and_split w 0xF0 0 (by decide), and_F0 _ (by omega), Nat.and_zero]
  omega

/-- Mask 0xF00F keeps the tag and `n`. -/
theorem toNat_and_F00F (w : Word) : (w &&& 0xF00F).toNat = w.toNat / 4096 * 4096 + w.toNat % 16 := by
  have := w.isLt
  rw [BitVec.toNat_and, show (0xF00F : Word).toNat = 0xF0 * 256 + 0x0F from rfl,
    toNat_and_split w 0xF0 0x0F (by decide), and_F0 _ (by omega), and_0F]
  omega

/-- Mask 0xF0FF keeps the tag and `nn`. -/
theorem toNat_and_F0FF (w : Word) : (w &&& 0xF0FF).toNat = w.toNat / 4096 * 4096 + w.toNat % 256 := by
  have := w.isLt
  rw [BitVec.toNat_and, show (0xF0FF : Word).toNat = 0xF0 * 256 + 0xFF from rfl,
    toNat_and_split w 0xF0 0xFF (by decide), and_F0 _ (by omega), and_FF (by omega)]
  omega

/-- Mask 0xFFFF keeps everything. -/
theorem and_FFFF (w : Word) : w &&& 0xFFFF = w := BitVec.and_allOnes

/-- A word is of a row when the masked numbers agree. -/
theorem OpcodeRow.covers_iff (r : OpcodeRow) (w : Word) :
    r.covers w = true ↔ (w &&& r.mask).toNat = r.pattern.toNat := by
  rw [OpcodeRow.covers, beq_iff_eq, BitVec.toNat_inj]

end Sys2Proof
end

