-- ==== Sys2Proof/Laws/State.lean ====
section
/-!
SUPPORT. One lemma for each field under each update of the state, and for each accessor an update leaves alone,
all by definition, so that no later proof unfolds a record update.
-/

namespace Sys2Proof.Machine

variable (s : State)


/-! ### State.setV -/

@[simp] theorem State.setV_v (x : Reg) (b : Byte) : (s.setV x b).v = s.v.set x.val b := rfl
@[simp] theorem State.setV_i (x : Reg) (b : Byte) : (s.setV x b).i = s.i := rfl
@[simp] theorem State.setV_pc (x : Reg) (b : Byte) : (s.setV x b).pc = s.pc := rfl
@[simp] theorem State.setV_stack (x : Reg) (b : Byte) : (s.setV x b).stack = s.stack := rfl
@[simp] theorem State.setV_sp (x : Reg) (b : Byte) : (s.setV x b).sp = s.sp := rfl
@[simp] theorem State.setV_dt (x : Reg) (b : Byte) : (s.setV x b).dt = s.dt := rfl
@[simp] theorem State.setV_st (x : Reg) (b : Byte) : (s.setV x b).st = s.st := rfl
@[simp] theorem State.setV_await (x : Reg) (b : Byte) : (s.setV x b).await = s.await := rfl
@[simp] theorem State.setV_fault (x : Reg) (b : Byte) : (s.setV x b).fault = s.fault := rfl
@[simp] theorem State.setV_mem (x : Reg) (b : Byte) : (s.setV x b).mem = s.mem := rfl
@[simp] theorem State.setV_fb (x : Reg) (b : Byte) : (s.setV x b).fb = s.fb := rfl
@[simp] theorem State.setV_keys (x : Reg) (b : Byte) : (s.setV x b).keys = s.keys := rfl
@[simp] theorem State.setV_keyLatch (x : Reg) (b : Byte) : (s.setV x b).keyLatch = s.keyLatch := rfl
@[simp] theorem State.setV_draws (x : Reg) (b : Byte) : (s.setV x b).draws = s.draws := rfl
@[simp] theorem State.setV_cell (x : Reg) (b : Byte) (k : Fin 16) : (s.setV x b).cell k = s.cell k := rfl
@[simp] theorem State.setV_readByte (x : Reg) (b : Byte) (a : Nat) : (s.setV x b).readByte a = s.readByte a := rfl
@[simp] theorem State.setV_pixel (x : Reg) (b : Byte) (qx : Fin Config.fbW) (qy : Fin Config.fbH) :
    (s.setV x b).pixel qx qy = s.pixel qx qy := rfl
@[simp] theorem State.setV_keyPressed (x : Reg) (b : Byte) (k : Key) : (s.setV x b).keyPressed k = s.keyPressed k := rfl

/-! ### State.setRegs -/

@[simp] theorem State.setRegs_v (vs : Vector Byte 16) : (s.setRegs vs).v = vs := rfl
@[simp] theorem State.setRegs_i (vs : Vector Byte 16) : (s.setRegs vs).i = s.i := rfl
@[simp] theorem State.setRegs_pc (vs : Vector Byte 16) : (s.setRegs vs).pc = s.pc := rfl
@[simp] theorem State.setRegs_stack (vs : Vector Byte 16) : (s.setRegs vs).stack = s.stack := rfl
@[simp] theorem State.setRegs_sp (vs : Vector Byte 16) : (s.setRegs vs).sp = s.sp := rfl
@[simp] theorem State.setRegs_dt (vs : Vector Byte 16) : (s.setRegs vs).dt = s.dt := rfl
@[simp] theorem State.setRegs_st (vs : Vector Byte 16) : (s.setRegs vs).st = s.st := rfl
@[simp] theorem State.setRegs_await (vs : Vector Byte 16) : (s.setRegs vs).await = s.await := rfl
@[simp] theorem State.setRegs_fault (vs : Vector Byte 16) : (s.setRegs vs).fault = s.fault := rfl
@[simp] theorem State.setRegs_mem (vs : Vector Byte 16) : (s.setRegs vs).mem = s.mem := rfl
@[simp] theorem State.setRegs_fb (vs : Vector Byte 16) : (s.setRegs vs).fb = s.fb := rfl
@[simp] theorem State.setRegs_keys (vs : Vector Byte 16) : (s.setRegs vs).keys = s.keys := rfl
@[simp] theorem State.setRegs_keyLatch (vs : Vector Byte 16) : (s.setRegs vs).keyLatch = s.keyLatch := rfl
@[simp] theorem State.setRegs_draws (vs : Vector Byte 16) : (s.setRegs vs).draws = s.draws := rfl
@[simp] theorem State.setRegs_getV (vs : Vector Byte 16) (r : Reg) : (s.setRegs vs).getV r = vs[r.val] := rfl
@[simp] theorem State.setRegs_cell (vs : Vector Byte 16) (k : Fin 16) : (s.setRegs vs).cell k = s.cell k := rfl
@[simp] theorem State.setRegs_readByte (vs : Vector Byte 16) (a : Nat) : (s.setRegs vs).readByte a = s.readByte a := rfl
@[simp] theorem State.setRegs_pixel (vs : Vector Byte 16) (qx : Fin Config.fbW) (qy : Fin Config.fbH) :
    (s.setRegs vs).pixel qx qy = s.pixel qx qy := rfl
@[simp] theorem State.setRegs_keyPressed (vs : Vector Byte 16) (k : Key) : (s.setRegs vs).keyPressed k = s.keyPressed k := rfl

/-! ### State.setFb -/

@[simp] theorem State.setFb_v (f : Framebuffer) : (s.setFb f).v = s.v := rfl
@[simp] theorem State.setFb_i (f : Framebuffer) : (s.setFb f).i = s.i := rfl
@[simp] theorem State.setFb_pc (f : Framebuffer) : (s.setFb f).pc = s.pc := rfl
@[simp] theorem State.setFb_stack (f : Framebuffer) : (s.setFb f).stack = s.stack := rfl
@[simp] theorem State.setFb_sp (f : Framebuffer) : (s.setFb f).sp = s.sp := rfl
@[simp] theorem State.setFb_dt (f : Framebuffer) : (s.setFb f).dt = s.dt := rfl
@[simp] theorem State.setFb_st (f : Framebuffer) : (s.setFb f).st = s.st := rfl
@[simp] theorem State.setFb_await (f : Framebuffer) : (s.setFb f).await = s.await := rfl
@[simp] theorem State.setFb_fault (f : Framebuffer) : (s.setFb f).fault = s.fault := rfl
@[simp] theorem State.setFb_mem (f : Framebuffer) : (s.setFb f).mem = s.mem := rfl
@[simp] theorem State.setFb_fb (f : Framebuffer) : (s.setFb f).fb = f := rfl
@[simp] theorem State.setFb_keys (f : Framebuffer) : (s.setFb f).keys = s.keys := rfl
@[simp] theorem State.setFb_keyLatch (f : Framebuffer) : (s.setFb f).keyLatch = s.keyLatch := rfl
@[simp] theorem State.setFb_draws (f : Framebuffer) : (s.setFb f).draws = s.draws := rfl
@[simp] theorem State.setFb_getV (f : Framebuffer) (r : Reg) : (s.setFb f).getV r = s.getV r := rfl
@[simp] theorem State.setFb_cell (f : Framebuffer) (k : Fin 16) : (s.setFb f).cell k = s.cell k := rfl
@[simp] theorem State.setFb_readByte (f : Framebuffer) (a : Nat) : (s.setFb f).readByte a = s.readByte a := rfl
@[simp] theorem State.setFb_pixel (f : Framebuffer) (qx : Fin Config.fbW) (qy : Fin Config.fbH) :
    (s.setFb f).pixel qx qy = f.pixel qx qy := rfl
@[simp] theorem State.setFb_keyPressed (f : Framebuffer) (k : Key) : (s.setFb f).keyPressed k = s.keyPressed k := rfl

/-! ### State.setI -/

@[simp] theorem State.setI_v (w : Word) : (s.setI w).v = s.v := rfl
@[simp] theorem State.setI_i (w : Word) : (s.setI w).i = w := rfl
@[simp] theorem State.setI_pc (w : Word) : (s.setI w).pc = s.pc := rfl
@[simp] theorem State.setI_stack (w : Word) : (s.setI w).stack = s.stack := rfl
@[simp] theorem State.setI_sp (w : Word) : (s.setI w).sp = s.sp := rfl
@[simp] theorem State.setI_dt (w : Word) : (s.setI w).dt = s.dt := rfl
@[simp] theorem State.setI_st (w : Word) : (s.setI w).st = s.st := rfl
@[simp] theorem State.setI_await (w : Word) : (s.setI w).await = s.await := rfl
@[simp] theorem State.setI_fault (w : Word) : (s.setI w).fault = s.fault := rfl
@[simp] theorem State.setI_mem (w : Word) : (s.setI w).mem = s.mem := rfl
@[simp] theorem State.setI_fb (w : Word) : (s.setI w).fb = s.fb := rfl
@[simp] theorem State.setI_keys (w : Word) : (s.setI w).keys = s.keys := rfl
@[simp] theorem State.setI_keyLatch (w : Word) : (s.setI w).keyLatch = s.keyLatch := rfl
@[simp] theorem State.setI_draws (w : Word) : (s.setI w).draws = s.draws := rfl
@[simp] theorem State.setI_getV (w : Word) (r : Reg) : (s.setI w).getV r = s.getV r := rfl
@[simp] theorem State.setI_cell (w : Word) (k : Fin 16) : (s.setI w).cell k = s.cell k := rfl
@[simp] theorem State.setI_readByte (w : Word) (a : Nat) : (s.setI w).readByte a = s.readByte a := rfl
@[simp] theorem State.setI_pixel (w : Word) (qx : Fin Config.fbW) (qy : Fin Config.fbH) :
    (s.setI w).pixel qx qy = s.pixel qx qy := rfl
@[simp] theorem State.setI_keyPressed (w : Word) (k : Key) : (s.setI w).keyPressed k = s.keyPressed k := rfl

/-! ### State.setPc -/

@[simp] theorem State.setPc_v (w : Word) : (s.setPc w).v = s.v := rfl
@[simp] theorem State.setPc_i (w : Word) : (s.setPc w).i = s.i := rfl
@[simp] theorem State.setPc_pc (w : Word) : (s.setPc w).pc = w := rfl
@[simp] theorem State.setPc_stack (w : Word) : (s.setPc w).stack = s.stack := rfl
@[simp] theorem State.setPc_sp (w : Word) : (s.setPc w).sp = s.sp := rfl
@[simp] theorem State.setPc_dt (w : Word) : (s.setPc w).dt = s.dt := rfl
@[simp] theorem State.setPc_st (w : Word) : (s.setPc w).st = s.st := rfl
@[simp] theorem State.setPc_await (w : Word) : (s.setPc w).await = s.await := rfl
@[simp] theorem State.setPc_fault (w : Word) : (s.setPc w).fault = s.fault := rfl
@[simp] theorem State.setPc_mem (w : Word) : (s.setPc w).mem = s.mem := rfl
@[simp] theorem State.setPc_fb (w : Word) : (s.setPc w).fb = s.fb := rfl
@[simp] theorem State.setPc_keys (w : Word) : (s.setPc w).keys = s.keys := rfl
@[simp] theorem State.setPc_keyLatch (w : Word) : (s.setPc w).keyLatch = s.keyLatch := rfl
@[simp] theorem State.setPc_draws (w : Word) : (s.setPc w).draws = s.draws := rfl
@[simp] theorem State.setPc_getV (w : Word) (r : Reg) : (s.setPc w).getV r = s.getV r := rfl
@[simp] theorem State.setPc_cell (w : Word) (k : Fin 16) : (s.setPc w).cell k = s.cell k := rfl
@[simp] theorem State.setPc_readByte (w : Word) (a : Nat) : (s.setPc w).readByte a = s.readByte a := rfl
@[simp] theorem State.setPc_pixel (w : Word) (qx : Fin Config.fbW) (qy : Fin Config.fbH) :
    (s.setPc w).pixel qx qy = s.pixel qx qy := rfl
@[simp] theorem State.setPc_keyPressed (w : Word) (k : Key) : (s.setPc w).keyPressed k = s.keyPressed k := rfl

/-! ### State.advance -/

@[simp] theorem State.advance_v : (s.advance).v = s.v := rfl
@[simp] theorem State.advance_i : (s.advance).i = s.i := rfl
@[simp] theorem State.advance_pc : (s.advance).pc = s.pc + 2 := rfl
@[simp] theorem State.advance_stack : (s.advance).stack = s.stack := rfl
@[simp] theorem State.advance_sp : (s.advance).sp = s.sp := rfl
@[simp] theorem State.advance_dt : (s.advance).dt = s.dt := rfl
@[simp] theorem State.advance_st : (s.advance).st = s.st := rfl
@[simp] theorem State.advance_await : (s.advance).await = s.await := rfl
@[simp] theorem State.advance_fault : (s.advance).fault = s.fault := rfl
@[simp] theorem State.advance_mem : (s.advance).mem = s.mem := rfl
@[simp] theorem State.advance_fb : (s.advance).fb = s.fb := rfl
@[simp] theorem State.advance_keys : (s.advance).keys = s.keys := rfl
@[simp] theorem State.advance_keyLatch : (s.advance).keyLatch = s.keyLatch := rfl
@[simp] theorem State.advance_draws : (s.advance).draws = s.draws := rfl
@[simp] theorem State.advance_getV (r : Reg) : (s.advance).getV r = s.getV r := rfl
@[simp] theorem State.advance_cell (k : Fin 16) : (s.advance).cell k = s.cell k := rfl
@[simp] theorem State.advance_readByte (a : Nat) : (s.advance).readByte a = s.readByte a := rfl
@[simp] theorem State.advance_pixel (qx : Fin Config.fbW) (qy : Fin Config.fbH) :
    (s.advance).pixel qx qy = s.pixel qx qy := rfl
@[simp] theorem State.advance_keyPressed (k : Key) : (s.advance).keyPressed k = s.keyPressed k := rfl

/-! ### State.skip -/

@[simp] theorem State.skip_v : (s.skip).v = s.v := rfl
@[simp] theorem State.skip_i : (s.skip).i = s.i := rfl
@[simp] theorem State.skip_pc : (s.skip).pc = s.pc + 4 := rfl
@[simp] theorem State.skip_stack : (s.skip).stack = s.stack := rfl
@[simp] theorem State.skip_sp : (s.skip).sp = s.sp := rfl
@[simp] theorem State.skip_dt : (s.skip).dt = s.dt := rfl
@[simp] theorem State.skip_st : (s.skip).st = s.st := rfl
@[simp] theorem State.skip_await : (s.skip).await = s.await := rfl
@[simp] theorem State.skip_fault : (s.skip).fault = s.fault := rfl
@[simp] theorem State.skip_mem : (s.skip).mem = s.mem := rfl
@[simp] theorem State.skip_fb : (s.skip).fb = s.fb := rfl
@[simp] theorem State.skip_keys : (s.skip).keys = s.keys := rfl
@[simp] theorem State.skip_keyLatch : (s.skip).keyLatch = s.keyLatch := rfl
@[simp] theorem State.skip_draws : (s.skip).draws = s.draws := rfl
@[simp] theorem State.skip_getV (r : Reg) : (s.skip).getV r = s.getV r := rfl
@[simp] theorem State.skip_cell (k : Fin 16) : (s.skip).cell k = s.cell k := rfl
@[simp] theorem State.skip_readByte (a : Nat) : (s.skip).readByte a = s.readByte a := rfl
@[simp] theorem State.skip_pixel (qx : Fin Config.fbW) (qy : Fin Config.fbH) :
    (s.skip).pixel qx qy = s.pixel qx qy := rfl
@[simp] theorem State.skip_keyPressed (k : Key) : (s.skip).keyPressed k = s.keyPressed k := rfl

/-! ### State.setResultAndFlag -/

@[simp] theorem State.setResultAndFlag_v (x : Reg) (b c : Byte) : (s.setResultAndFlag x b c).v = (s.v.set x.val b).set VF.val c := rfl
@[simp] theorem State.setResultAndFlag_i (x : Reg) (b c : Byte) : (s.setResultAndFlag x b c).i = s.i := rfl
@[simp] theorem State.setResultAndFlag_pc (x : Reg) (b c : Byte) : (s.setResultAndFlag x b c).pc = s.pc := rfl
@[simp] theorem State.setResultAndFlag_stack (x : Reg) (b c : Byte) : (s.setResultAndFlag x b c).stack = s.stack := rfl
@[simp] theorem State.setResultAndFlag_sp (x : Reg) (b c : Byte) : (s.setResultAndFlag x b c).sp = s.sp := rfl
@[simp] theorem State.setResultAndFlag_dt (x : Reg) (b c : Byte) : (s.setResultAndFlag x b c).dt = s.dt := rfl
@[simp] theorem State.setResultAndFlag_st (x : Reg) (b c : Byte) : (s.setResultAndFlag x b c).st = s.st := rfl
@[simp] theorem State.setResultAndFlag_await (x : Reg) (b c : Byte) : (s.setResultAndFlag x b c).await = s.await := rfl
@[simp] theorem State.setResultAndFlag_fault (x : Reg) (b c : Byte) : (s.setResultAndFlag x b c).fault = s.fault := rfl
@[simp] theorem State.setResultAndFlag_mem (x : Reg) (b c : Byte) : (s.setResultAndFlag x b c).mem = s.mem := rfl
@[simp] theorem State.setResultAndFlag_fb (x : Reg) (b c : Byte) : (s.setResultAndFlag x b c).fb = s.fb := rfl
@[simp] theorem State.setResultAndFlag_keys (x : Reg) (b c : Byte) : (s.setResultAndFlag x b c).keys = s.keys := rfl
@[simp] theorem State.setResultAndFlag_keyLatch (x : Reg) (b c : Byte) : (s.setResultAndFlag x b c).keyLatch = s.keyLatch := rfl
@[simp] theorem State.setResultAndFlag_draws (x : Reg) (b c : Byte) : (s.setResultAndFlag x b c).draws = s.draws := rfl
@[simp] theorem State.setResultAndFlag_cell (x : Reg) (b c : Byte) (k : Fin 16) : (s.setResultAndFlag x b c).cell k = s.cell k := rfl
@[simp] theorem State.setResultAndFlag_readByte (x : Reg) (b c : Byte) (a : Nat) : (s.setResultAndFlag x b c).readByte a = s.readByte a := rfl
@[simp] theorem State.setResultAndFlag_pixel (x : Reg) (b c : Byte) (qx : Fin Config.fbW) (qy : Fin Config.fbH) :
    (s.setResultAndFlag x b c).pixel qx qy = s.pixel qx qy := rfl
@[simp] theorem State.setResultAndFlag_keyPressed (x : Reg) (b c : Byte) (k : Key) : (s.setResultAndFlag x b c).keyPressed k = s.keyPressed k := rfl

/-! ### State.push -/

@[simp] theorem State.push_v (w : Word) (h : s.sp.val < 16) : (s.push w h).v = s.v := rfl
@[simp] theorem State.push_i (w : Word) (h : s.sp.val < 16) : (s.push w h).i = s.i := rfl
@[simp] theorem State.push_pc (w : Word) (h : s.sp.val < 16) : (s.push w h).pc = s.pc := rfl
@[simp] theorem State.push_stack (w : Word) (h : s.sp.val < 16) : (s.push w h).stack = s.stack.set s.sp.val w := rfl
@[simp] theorem State.push_sp (w : Word) (h : s.sp.val < 16) : (s.push w h).sp = ⟨s.sp.val + 1, by omega⟩ := rfl
@[simp] theorem State.push_dt (w : Word) (h : s.sp.val < 16) : (s.push w h).dt = s.dt := rfl
@[simp] theorem State.push_st (w : Word) (h : s.sp.val < 16) : (s.push w h).st = s.st := rfl
@[simp] theorem State.push_await (w : Word) (h : s.sp.val < 16) : (s.push w h).await = s.await := rfl
@[simp] theorem State.push_fault (w : Word) (h : s.sp.val < 16) : (s.push w h).fault = s.fault := rfl
@[simp] theorem State.push_mem (w : Word) (h : s.sp.val < 16) : (s.push w h).mem = s.mem := rfl
@[simp] theorem State.push_fb (w : Word) (h : s.sp.val < 16) : (s.push w h).fb = s.fb := rfl
@[simp] theorem State.push_keys (w : Word) (h : s.sp.val < 16) : (s.push w h).keys = s.keys := rfl
@[simp] theorem State.push_keyLatch (w : Word) (h : s.sp.val < 16) : (s.push w h).keyLatch = s.keyLatch := rfl
@[simp] theorem State.push_draws (w : Word) (h : s.sp.val < 16) : (s.push w h).draws = s.draws := rfl
@[simp] theorem State.push_getV (w : Word) (h : s.sp.val < 16) (r : Reg) : (s.push w h).getV r = s.getV r := rfl
@[simp] theorem State.push_readByte (w : Word) (h : s.sp.val < 16) (a : Nat) : (s.push w h).readByte a = s.readByte a := rfl
@[simp] theorem State.push_pixel (w : Word) (h : s.sp.val < 16) (qx : Fin Config.fbW) (qy : Fin Config.fbH) :
    (s.push w h).pixel qx qy = s.pixel qx qy := rfl
@[simp] theorem State.push_keyPressed (w : Word) (h : s.sp.val < 16) (k : Key) : (s.push w h).keyPressed k = s.keyPressed k := rfl

/-! ### State.popToPc -/

@[simp] theorem State.popToPc_v (h : 0 < s.sp.val) : (s.popToPc h).v = s.v := rfl
@[simp] theorem State.popToPc_i (h : 0 < s.sp.val) : (s.popToPc h).i = s.i := rfl
@[simp] theorem State.popToPc_pc (h : 0 < s.sp.val) : (s.popToPc h).pc = s.cell ⟨s.sp.val - 1, by have := s.sp.isLt; omega⟩ := rfl
@[simp] theorem State.popToPc_stack (h : 0 < s.sp.val) : (s.popToPc h).stack = s.stack := rfl
@[simp] theorem State.popToPc_sp (h : 0 < s.sp.val) : (s.popToPc h).sp = ⟨s.sp.val - 1, by omega⟩ := rfl
@[simp] theorem State.popToPc_dt (h : 0 < s.sp.val) : (s.popToPc h).dt = s.dt := rfl
@[simp] theorem State.popToPc_st (h : 0 < s.sp.val) : (s.popToPc h).st = s.st := rfl
@[simp] theorem State.popToPc_await (h : 0 < s.sp.val) : (s.popToPc h).await = s.await := rfl
@[simp] theorem State.popToPc_fault (h : 0 < s.sp.val) : (s.popToPc h).fault = s.fault := rfl
@[simp] theorem State.popToPc_mem (h : 0 < s.sp.val) : (s.popToPc h).mem = s.mem := rfl
@[simp] theorem State.popToPc_fb (h : 0 < s.sp.val) : (s.popToPc h).fb = s.fb := rfl
@[simp] theorem State.popToPc_keys (h : 0 < s.sp.val) : (s.popToPc h).keys = s.keys := rfl
@[simp] theorem State.popToPc_keyLatch (h : 0 < s.sp.val) : (s.popToPc h).keyLatch = s.keyLatch := rfl
@[simp] theorem State.popToPc_draws (h : 0 < s.sp.val) : (s.popToPc h).draws = s.draws := rfl
@[simp] theorem State.popToPc_getV (h : 0 < s.sp.val) (r : Reg) : (s.popToPc h).getV r = s.getV r := rfl
@[simp] theorem State.popToPc_cell (h : 0 < s.sp.val) (k : Fin 16) : (s.popToPc h).cell k = s.cell k := rfl
@[simp] theorem State.popToPc_readByte (h : 0 < s.sp.val) (a : Nat) : (s.popToPc h).readByte a = s.readByte a := rfl
@[simp] theorem State.popToPc_pixel (h : 0 < s.sp.val) (qx : Fin Config.fbW) (qy : Fin Config.fbH) :
    (s.popToPc h).pixel qx qy = s.pixel qx qy := rfl
@[simp] theorem State.popToPc_keyPressed (h : 0 < s.sp.val) (k : Key) : (s.popToPc h).keyPressed k = s.keyPressed k := rfl

/-! ### State.withFault -/

@[simp] theorem State.withFault_v (k : FaultKind) (w : Word) : (s.withFault k w).v = s.v := rfl
@[simp] theorem State.withFault_i (k : FaultKind) (w : Word) : (s.withFault k w).i = s.i := rfl
@[simp] theorem State.withFault_pc (k : FaultKind) (w : Word) : (s.withFault k w).pc = s.pc := rfl
@[simp] theorem State.withFault_stack (k : FaultKind) (w : Word) : (s.withFault k w).stack = s.stack := rfl
@[simp] theorem State.withFault_sp (k : FaultKind) (w : Word) : (s.withFault k w).sp = s.sp := rfl
@[simp] theorem State.withFault_dt (k : FaultKind) (w : Word) : (s.withFault k w).dt = s.dt := rfl
@[simp] theorem State.withFault_st (k : FaultKind) (w : Word) : (s.withFault k w).st = s.st := rfl
@[simp] theorem State.withFault_await (k : FaultKind) (w : Word) : (s.withFault k w).await = s.await := rfl
@[simp] theorem State.withFault_fault (k : FaultKind) (w : Word) : (s.withFault k w).fault = ⟨some k, w, s.pc⟩ := rfl
@[simp] theorem State.withFault_mem (k : FaultKind) (w : Word) : (s.withFault k w).mem = s.mem := rfl
@[simp] theorem State.withFault_fb (k : FaultKind) (w : Word) : (s.withFault k w).fb = s.fb := rfl
@[simp] theorem State.withFault_keys (k : FaultKind) (w : Word) : (s.withFault k w).keys = s.keys := rfl
@[simp] theorem State.withFault_keyLatch (k : FaultKind) (w : Word) : (s.withFault k w).keyLatch = s.keyLatch := rfl
@[simp] theorem State.withFault_draws (k : FaultKind) (w : Word) : (s.withFault k w).draws = s.draws := rfl
@[simp] theorem State.withFault_getV (k : FaultKind) (w : Word) (r : Reg) : (s.withFault k w).getV r = s.getV r := rfl
@[simp] theorem State.withFault_cell (k : FaultKind) (w : Word) (k' : Fin 16) : (s.withFault k w).cell k' = s.cell k' := rfl
@[simp] theorem State.withFault_readByte (k : FaultKind) (w : Word) (a : Nat) : (s.withFault k w).readByte a = s.readByte a := rfl
@[simp] theorem State.withFault_pixel (k : FaultKind) (w : Word) (qx : Fin Config.fbW) (qy : Fin Config.fbH) :
    (s.withFault k w).pixel qx qy = s.pixel qx qy := rfl
@[simp] theorem State.withFault_keyPressed (k : FaultKind) (w : Word) (k' : Key) : (s.withFault k w).keyPressed k' = s.keyPressed k' := rfl

/-! ### State.writeBytes -/

@[simp] theorem State.writeBytes_v (a : Nat) (bs : List Byte) : (s.writeBytes a bs).v = s.v := rfl
@[simp] theorem State.writeBytes_i (a : Nat) (bs : List Byte) : (s.writeBytes a bs).i = s.i := rfl
@[simp] theorem State.writeBytes_pc (a : Nat) (bs : List Byte) : (s.writeBytes a bs).pc = s.pc := rfl
@[simp] theorem State.writeBytes_stack (a : Nat) (bs : List Byte) : (s.writeBytes a bs).stack = s.stack := rfl
@[simp] theorem State.writeBytes_sp (a : Nat) (bs : List Byte) : (s.writeBytes a bs).sp = s.sp := rfl
@[simp] theorem State.writeBytes_dt (a : Nat) (bs : List Byte) : (s.writeBytes a bs).dt = s.dt := rfl
@[simp] theorem State.writeBytes_st (a : Nat) (bs : List Byte) : (s.writeBytes a bs).st = s.st := rfl
@[simp] theorem State.writeBytes_await (a : Nat) (bs : List Byte) : (s.writeBytes a bs).await = s.await := rfl
@[simp] theorem State.writeBytes_fault (a : Nat) (bs : List Byte) : (s.writeBytes a bs).fault = s.fault := rfl
@[simp] theorem State.writeBytes_mem (a : Nat) (bs : List Byte) : (s.writeBytes a bs).mem = Memory.writeBytes s.mem a bs := rfl
@[simp] theorem State.writeBytes_fb (a : Nat) (bs : List Byte) : (s.writeBytes a bs).fb = s.fb := rfl
@[simp] theorem State.writeBytes_keys (a : Nat) (bs : List Byte) : (s.writeBytes a bs).keys = s.keys := rfl
@[simp] theorem State.writeBytes_keyLatch (a : Nat) (bs : List Byte) : (s.writeBytes a bs).keyLatch = s.keyLatch := rfl
@[simp] theorem State.writeBytes_draws (a : Nat) (bs : List Byte) : (s.writeBytes a bs).draws = s.draws := rfl
@[simp] theorem State.writeBytes_getV (a : Nat) (bs : List Byte) (r : Reg) : (s.writeBytes a bs).getV r = s.getV r := rfl
@[simp] theorem State.writeBytes_cell (a : Nat) (bs : List Byte) (k : Fin 16) : (s.writeBytes a bs).cell k = s.cell k := rfl
@[simp] theorem State.writeBytes_pixel (a : Nat) (bs : List Byte) (qx : Fin Config.fbW) (qy : Fin Config.fbH) :
    (s.writeBytes a bs).pixel qx qy = s.pixel qx qy := rfl
@[simp] theorem State.writeBytes_keyPressed (a : Nat) (bs : List Byte) (k : Key) : (s.writeBytes a bs).keyPressed k = s.keyPressed k := rfl

/-! ### State.fbClear -/

@[simp] theorem State.fbClear_v : (s.fbClear).v = s.v := rfl
@[simp] theorem State.fbClear_i : (s.fbClear).i = s.i := rfl
@[simp] theorem State.fbClear_pc : (s.fbClear).pc = s.pc := rfl
@[simp] theorem State.fbClear_stack : (s.fbClear).stack = s.stack := rfl
@[simp] theorem State.fbClear_sp : (s.fbClear).sp = s.sp := rfl
@[simp] theorem State.fbClear_dt : (s.fbClear).dt = s.dt := rfl
@[simp] theorem State.fbClear_st : (s.fbClear).st = s.st := rfl
@[simp] theorem State.fbClear_await : (s.fbClear).await = s.await := rfl
@[simp] theorem State.fbClear_fault : (s.fbClear).fault = s.fault := rfl
@[simp] theorem State.fbClear_mem : (s.fbClear).mem = s.mem := rfl
@[simp] theorem State.fbClear_fb : (s.fbClear).fb = Framebuffer.blank := rfl
@[simp] theorem State.fbClear_keys : (s.fbClear).keys = s.keys := rfl
@[simp] theorem State.fbClear_keyLatch : (s.fbClear).keyLatch = s.keyLatch := rfl
@[simp] theorem State.fbClear_draws : (s.fbClear).draws = s.draws := rfl
@[simp] theorem State.fbClear_getV (r : Reg) : (s.fbClear).getV r = s.getV r := rfl
@[simp] theorem State.fbClear_cell (k : Fin 16) : (s.fbClear).cell k = s.cell k := rfl
@[simp] theorem State.fbClear_readByte (a : Nat) : (s.fbClear).readByte a = s.readByte a := rfl
@[simp] theorem State.fbClear_keyPressed (k : Key) : (s.fbClear).keyPressed k = s.keyPressed k := rfl

/-! ### State.afterKeyEvent -/

@[simp] theorem State.afterKeyEvent_v : (s.afterKeyEvent).v = s.v := rfl
@[simp] theorem State.afterKeyEvent_i : (s.afterKeyEvent).i = s.i := rfl
@[simp] theorem State.afterKeyEvent_pc : (s.afterKeyEvent).pc = s.pc := rfl
@[simp] theorem State.afterKeyEvent_stack : (s.afterKeyEvent).stack = s.stack := rfl
@[simp] theorem State.afterKeyEvent_sp : (s.afterKeyEvent).sp = s.sp := rfl
@[simp] theorem State.afterKeyEvent_dt : (s.afterKeyEvent).dt = s.dt := rfl
@[simp] theorem State.afterKeyEvent_st : (s.afterKeyEvent).st = s.st := rfl
@[simp] theorem State.afterKeyEvent_await : (s.afterKeyEvent).await = s.await := rfl
@[simp] theorem State.afterKeyEvent_fault : (s.afterKeyEvent).fault = s.fault := rfl
@[simp] theorem State.afterKeyEvent_mem : (s.afterKeyEvent).mem = s.mem := rfl
@[simp] theorem State.afterKeyEvent_fb : (s.afterKeyEvent).fb = s.fb := rfl
@[simp] theorem State.afterKeyEvent_keys : (s.afterKeyEvent).keys = s.keys := rfl
@[simp] theorem State.afterKeyEvent_keyLatch : (s.afterKeyEvent).keyLatch = none := rfl
@[simp] theorem State.afterKeyEvent_draws : (s.afterKeyEvent).draws = s.draws := rfl
@[simp] theorem State.afterKeyEvent_getV (r : Reg) : (s.afterKeyEvent).getV r = s.getV r := rfl
@[simp] theorem State.afterKeyEvent_cell (k : Fin 16) : (s.afterKeyEvent).cell k = s.cell k := rfl
@[simp] theorem State.afterKeyEvent_readByte (a : Nat) : (s.afterKeyEvent).readByte a = s.readByte a := rfl
@[simp] theorem State.afterKeyEvent_pixel (qx : Fin Config.fbW) (qy : Fin Config.fbH) :
    (s.afterKeyEvent).pixel qx qy = s.pixel qx qy := rfl
@[simp] theorem State.afterKeyEvent_keyPressed (k : Key) : (s.afterKeyEvent).keyPressed k = s.keyPressed k := rfl

/-! ### State.setAwait -/

@[simp] theorem State.setAwait_v (b : Bool) : (s.setAwait b).v = s.v := rfl
@[simp] theorem State.setAwait_i (b : Bool) : (s.setAwait b).i = s.i := rfl
@[simp] theorem State.setAwait_pc (b : Bool) : (s.setAwait b).pc = s.pc := rfl
@[simp] theorem State.setAwait_stack (b : Bool) : (s.setAwait b).stack = s.stack := rfl
@[simp] theorem State.setAwait_sp (b : Bool) : (s.setAwait b).sp = s.sp := rfl
@[simp] theorem State.setAwait_dt (b : Bool) : (s.setAwait b).dt = s.dt := rfl
@[simp] theorem State.setAwait_st (b : Bool) : (s.setAwait b).st = s.st := rfl
@[simp] theorem State.setAwait_await (b : Bool) : (s.setAwait b).await = b := rfl
@[simp] theorem State.setAwait_fault (b : Bool) : (s.setAwait b).fault = s.fault := rfl
@[simp] theorem State.setAwait_mem (b : Bool) : (s.setAwait b).mem = s.mem := rfl
@[simp] theorem State.setAwait_fb (b : Bool) : (s.setAwait b).fb = s.fb := rfl
@[simp] theorem State.setAwait_keys (b : Bool) : (s.setAwait b).keys = s.keys := rfl
@[simp] theorem State.setAwait_keyLatch (b : Bool) : (s.setAwait b).keyLatch = s.keyLatch := rfl
@[simp] theorem State.setAwait_draws (b : Bool) : (s.setAwait b).draws = s.draws := rfl
@[simp] theorem State.setAwait_getV (b : Bool) (r : Reg) : (s.setAwait b).getV r = s.getV r := rfl
@[simp] theorem State.setAwait_cell (b : Bool) (k : Fin 16) : (s.setAwait b).cell k = s.cell k := rfl
@[simp] theorem State.setAwait_readByte (b : Bool) (a : Nat) : (s.setAwait b).readByte a = s.readByte a := rfl
@[simp] theorem State.setAwait_pixel (b : Bool) (qx : Fin Config.fbW) (qy : Fin Config.fbH) :
    (s.setAwait b).pixel qx qy = s.pixel qx qy := rfl
@[simp] theorem State.setAwait_keyPressed (b : Bool) (k : Key) : (s.setAwait b).keyPressed k = s.keyPressed k := rfl

/-! ### State.setDt -/

@[simp] theorem State.setDt_v (b : Byte) : (s.setDt b).v = s.v := rfl
@[simp] theorem State.setDt_i (b : Byte) : (s.setDt b).i = s.i := rfl
@[simp] theorem State.setDt_pc (b : Byte) : (s.setDt b).pc = s.pc := rfl
@[simp] theorem State.setDt_stack (b : Byte) : (s.setDt b).stack = s.stack := rfl
@[simp] theorem State.setDt_sp (b : Byte) : (s.setDt b).sp = s.sp := rfl
@[simp] theorem State.setDt_dt (b : Byte) : (s.setDt b).dt = b := rfl
@[simp] theorem State.setDt_st (b : Byte) : (s.setDt b).st = s.st := rfl
@[simp] theorem State.setDt_await (b : Byte) : (s.setDt b).await = s.await := rfl
@[simp] theorem State.setDt_fault (b : Byte) : (s.setDt b).fault = s.fault := rfl
@[simp] theorem State.setDt_mem (b : Byte) : (s.setDt b).mem = s.mem := rfl
@[simp] theorem State.setDt_fb (b : Byte) : (s.setDt b).fb = s.fb := rfl
@[simp] theorem State.setDt_keys (b : Byte) : (s.setDt b).keys = s.keys := rfl
@[simp] theorem State.setDt_keyLatch (b : Byte) : (s.setDt b).keyLatch = s.keyLatch := rfl
@[simp] theorem State.setDt_draws (b : Byte) : (s.setDt b).draws = s.draws := rfl
@[simp] theorem State.setDt_getV (b : Byte) (r : Reg) : (s.setDt b).getV r = s.getV r := rfl
@[simp] theorem State.setDt_cell (b : Byte) (k : Fin 16) : (s.setDt b).cell k = s.cell k := rfl
@[simp] theorem State.setDt_readByte (b : Byte) (a : Nat) : (s.setDt b).readByte a = s.readByte a := rfl
@[simp] theorem State.setDt_pixel (b : Byte) (qx : Fin Config.fbW) (qy : Fin Config.fbH) :
    (s.setDt b).pixel qx qy = s.pixel qx qy := rfl
@[simp] theorem State.setDt_keyPressed (b : Byte) (k : Key) : (s.setDt b).keyPressed k = s.keyPressed k := rfl

/-! ### State.setSt -/

@[simp] theorem State.setSt_v (b : Byte) : (s.setSt b).v = s.v := rfl
@[simp] theorem State.setSt_i (b : Byte) : (s.setSt b).i = s.i := rfl
@[simp] theorem State.setSt_pc (b : Byte) : (s.setSt b).pc = s.pc := rfl
@[simp] theorem State.setSt_stack (b : Byte) : (s.setSt b).stack = s.stack := rfl
@[simp] theorem State.setSt_sp (b : Byte) : (s.setSt b).sp = s.sp := rfl
@[simp] theorem State.setSt_dt (b : Byte) : (s.setSt b).dt = s.dt := rfl
@[simp] theorem State.setSt_st (b : Byte) : (s.setSt b).st = b := rfl
@[simp] theorem State.setSt_await (b : Byte) : (s.setSt b).await = s.await := rfl
@[simp] theorem State.setSt_fault (b : Byte) : (s.setSt b).fault = s.fault := rfl
@[simp] theorem State.setSt_mem (b : Byte) : (s.setSt b).mem = s.mem := rfl
@[simp] theorem State.setSt_fb (b : Byte) : (s.setSt b).fb = s.fb := rfl
@[simp] theorem State.setSt_keys (b : Byte) : (s.setSt b).keys = s.keys := rfl
@[simp] theorem State.setSt_keyLatch (b : Byte) : (s.setSt b).keyLatch = s.keyLatch := rfl
@[simp] theorem State.setSt_draws (b : Byte) : (s.setSt b).draws = s.draws := rfl
@[simp] theorem State.setSt_getV (b : Byte) (r : Reg) : (s.setSt b).getV r = s.getV r := rfl
@[simp] theorem State.setSt_cell (b : Byte) (k : Fin 16) : (s.setSt b).cell k = s.cell k := rfl
@[simp] theorem State.setSt_readByte (b : Byte) (a : Nat) : (s.setSt b).readByte a = s.readByte a := rfl
@[simp] theorem State.setSt_pixel (b : Byte) (qx : Fin Config.fbW) (qy : Fin Config.fbH) :
    (s.setSt b).pixel qx qy = s.pixel qx qy := rfl
@[simp] theorem State.setSt_keyPressed (b : Byte) (k : Key) : (s.setSt b).keyPressed k = s.keyPressed k := rfl

/-! ### State.afterRandomByte -/

@[simp] theorem State.afterRandomByte_v : (s.afterRandomByte).v = s.v := rfl
@[simp] theorem State.afterRandomByte_i : (s.afterRandomByte).i = s.i := rfl
@[simp] theorem State.afterRandomByte_pc : (s.afterRandomByte).pc = s.pc := rfl
@[simp] theorem State.afterRandomByte_stack : (s.afterRandomByte).stack = s.stack := rfl
@[simp] theorem State.afterRandomByte_sp : (s.afterRandomByte).sp = s.sp := rfl
@[simp] theorem State.afterRandomByte_dt : (s.afterRandomByte).dt = s.dt := rfl
@[simp] theorem State.afterRandomByte_st : (s.afterRandomByte).st = s.st := rfl
@[simp] theorem State.afterRandomByte_await : (s.afterRandomByte).await = s.await := rfl
@[simp] theorem State.afterRandomByte_fault : (s.afterRandomByte).fault = s.fault := rfl
@[simp] theorem State.afterRandomByte_mem : (s.afterRandomByte).mem = s.mem := rfl
@[simp] theorem State.afterRandomByte_fb : (s.afterRandomByte).fb = s.fb := rfl
@[simp] theorem State.afterRandomByte_keys : (s.afterRandomByte).keys = s.keys := rfl
@[simp] theorem State.afterRandomByte_keyLatch : (s.afterRandomByte).keyLatch = s.keyLatch := rfl
@[simp] theorem State.afterRandomByte_draws : (s.afterRandomByte).draws = s.draws + 1 := rfl
@[simp] theorem State.afterRandomByte_getV (r : Reg) : (s.afterRandomByte).getV r = s.getV r := rfl
@[simp] theorem State.afterRandomByte_cell (k : Fin 16) : (s.afterRandomByte).cell k = s.cell k := rfl
@[simp] theorem State.afterRandomByte_readByte (a : Nat) : (s.afterRandomByte).readByte a = s.readByte a := rfl
@[simp] theorem State.afterRandomByte_pixel (qx : Fin Config.fbW) (qy : Fin Config.fbH) :
    (s.afterRandomByte).pixel qx qy = s.pixel qx qy := rfl
@[simp] theorem State.afterRandomByte_keyPressed (k : Key) : (s.afterRandomByte).keyPressed k = s.keyPressed k := rfl

/-! ### State.timerTick -/

@[simp] theorem State.timerTick_v : (s.timerTick).v = s.v := rfl
@[simp] theorem State.timerTick_i : (s.timerTick).i = s.i := rfl
@[simp] theorem State.timerTick_pc : (s.timerTick).pc = s.pc := rfl
@[simp] theorem State.timerTick_stack : (s.timerTick).stack = s.stack := rfl
@[simp] theorem State.timerTick_sp : (s.timerTick).sp = s.sp := rfl
@[simp] theorem State.timerTick_dt : (s.timerTick).dt = countDown s.dt := rfl
@[simp] theorem State.timerTick_st : (s.timerTick).st = countDown s.st := rfl
@[simp] theorem State.timerTick_await : (s.timerTick).await = s.await := rfl
@[simp] theorem State.timerTick_fault : (s.timerTick).fault = s.fault := rfl
@[simp] theorem State.timerTick_mem : (s.timerTick).mem = s.mem := rfl
@[simp] theorem State.timerTick_fb : (s.timerTick).fb = s.fb := rfl
@[simp] theorem State.timerTick_keys : (s.timerTick).keys = s.keys := rfl
@[simp] theorem State.timerTick_keyLatch : (s.timerTick).keyLatch = s.keyLatch := rfl
@[simp] theorem State.timerTick_draws : (s.timerTick).draws = s.draws := rfl
@[simp] theorem State.timerTick_getV (r : Reg) : (s.timerTick).getV r = s.getV r := rfl
@[simp] theorem State.timerTick_cell (k : Fin 16) : (s.timerTick).cell k = s.cell k := rfl
@[simp] theorem State.timerTick_readByte (a : Nat) : (s.timerTick).readByte a = s.readByte a := rfl
@[simp] theorem State.timerTick_pixel (qx : Fin Config.fbW) (qy : Fin Config.fbH) :
    (s.timerTick).pixel qx qy = s.pixel qx qy := rfl
@[simp] theorem State.timerTick_keyPressed (k : Key) : (s.timerTick).keyPressed k = s.keyPressed k := rfl

/-! ### State.releaseKey -/

@[simp] theorem State.releaseKey_v (k : Key) : (s.releaseKey k).v = s.v := rfl
@[simp] theorem State.releaseKey_i (k : Key) : (s.releaseKey k).i = s.i := rfl
@[simp] theorem State.releaseKey_pc (k : Key) : (s.releaseKey k).pc = s.pc := rfl
@[simp] theorem State.releaseKey_stack (k : Key) : (s.releaseKey k).stack = s.stack := rfl
@[simp] theorem State.releaseKey_sp (k : Key) : (s.releaseKey k).sp = s.sp := rfl
@[simp] theorem State.releaseKey_dt (k : Key) : (s.releaseKey k).dt = s.dt := rfl
@[simp] theorem State.releaseKey_st (k : Key) : (s.releaseKey k).st = s.st := rfl
@[simp] theorem State.releaseKey_await (k : Key) : (s.releaseKey k).await = s.await := rfl
@[simp] theorem State.releaseKey_fault (k : Key) : (s.releaseKey k).fault = s.fault := rfl
@[simp] theorem State.releaseKey_mem (k : Key) : (s.releaseKey k).mem = s.mem := rfl
@[simp] theorem State.releaseKey_fb (k : Key) : (s.releaseKey k).fb = s.fb := rfl
@[simp] theorem State.releaseKey_keys (k : Key) : (s.releaseKey k).keys = s.keys.set k.val false := rfl
@[simp] theorem State.releaseKey_keyLatch (k : Key) : (s.releaseKey k).keyLatch = s.keyLatch := rfl
@[simp] theorem State.releaseKey_draws (k : Key) : (s.releaseKey k).draws = s.draws := rfl
@[simp] theorem State.releaseKey_getV (k : Key) (r : Reg) : (s.releaseKey k).getV r = s.getV r := rfl
@[simp] theorem State.releaseKey_cell (k : Key) (k' : Fin 16) : (s.releaseKey k).cell k' = s.cell k' := rfl
@[simp] theorem State.releaseKey_readByte (k : Key) (a : Nat) : (s.releaseKey k).readByte a = s.readByte a := rfl
@[simp] theorem State.releaseKey_pixel (k : Key) (qx : Fin Config.fbW) (qy : Fin Config.fbH) :
    (s.releaseKey k).pixel qx qy = s.pixel qx qy := rfl

/-! ### State.hostReset -/

@[simp] theorem State.hostReset_v : (s.hostReset).v = State.reset.v := rfl
@[simp] theorem State.hostReset_i : (s.hostReset).i = State.reset.i := rfl
@[simp] theorem State.hostReset_pc : (s.hostReset).pc = State.reset.pc := rfl
@[simp] theorem State.hostReset_stack : (s.hostReset).stack = State.reset.stack := rfl
@[simp] theorem State.hostReset_sp : (s.hostReset).sp = State.reset.sp := rfl
@[simp] theorem State.hostReset_dt : (s.hostReset).dt = State.reset.dt := rfl
@[simp] theorem State.hostReset_st : (s.hostReset).st = State.reset.st := rfl
@[simp] theorem State.hostReset_await : (s.hostReset).await = State.reset.await := rfl
@[simp] theorem State.hostReset_fault : (s.hostReset).fault = State.reset.fault := rfl
@[simp] theorem State.hostReset_mem : (s.hostReset).mem = State.reset.mem := rfl
@[simp] theorem State.hostReset_fb : (s.hostReset).fb = State.reset.fb := rfl
@[simp] theorem State.hostReset_keys : (s.hostReset).keys = s.keys := rfl
@[simp] theorem State.hostReset_keyLatch : (s.hostReset).keyLatch = State.reset.keyLatch := rfl
@[simp] theorem State.hostReset_draws : (s.hostReset).draws = s.draws := rfl
@[simp] theorem State.hostReset_keyPressed (k : Key) : (s.hostReset).keyPressed k = s.keyPressed k := rfl
@[simp] theorem State.hostReset_readByte (a : Nat) : (s.hostReset).readByte a = resetByte a := rfl
@[simp] theorem State.hostReset_getV (r : Reg) : (s.hostReset).getV r = 0 :=
  Vector.getElem_replicate r.isLt
@[simp] theorem State.hostReset_cell (k : Fin 16) : (s.hostReset).cell k = 0 :=
  Vector.getElem_replicate k.isLt
@[simp] theorem State.hostReset_pixel (qx : Fin Config.fbW) (qy : Fin Config.fbH) :
    (s.hostReset).pixel qx qy = false := by
  simp only [State.pixel, Framebuffer.pixel, State.hostReset, State.reset, Framebuffer.blank,
    Vector.getElem_replicate]

/-! ### State.skipIf, which skips or advances -/

/-- A conditional skip is one write of `pc` (R97). -/
theorem State.skipIf_eq (c : Bool) : s.skipIf c = s.setPc (if c then s.pc + 4 else s.pc + 2) := by
  cases c <;> rfl

@[simp] theorem State.skipIf_true : s.skipIf true = s.skip := rfl
@[simp] theorem State.skipIf_false : s.skipIf false = s.advance := rfl

@[simp] theorem State.skipIf_v (c : Bool) : (s.skipIf c).v = s.v := by cases c <;> rfl
@[simp] theorem State.skipIf_i (c : Bool) : (s.skipIf c).i = s.i := by cases c <;> rfl
theorem State.skipIf_pc (c : Bool) : (s.skipIf c).pc = if c then s.pc + 4 else s.pc + 2 := by
  cases c <;> rfl
@[simp] theorem State.skipIf_stack (c : Bool) : (s.skipIf c).stack = s.stack := by cases c <;> rfl
@[simp] theorem State.skipIf_sp (c : Bool) : (s.skipIf c).sp = s.sp := by cases c <;> rfl
@[simp] theorem State.skipIf_dt (c : Bool) : (s.skipIf c).dt = s.dt := by cases c <;> rfl
@[simp] theorem State.skipIf_st (c : Bool) : (s.skipIf c).st = s.st := by cases c <;> rfl
@[simp] theorem State.skipIf_await (c : Bool) : (s.skipIf c).await = s.await := by cases c <;> rfl
@[simp] theorem State.skipIf_fault (c : Bool) : (s.skipIf c).fault = s.fault := by cases c <;> rfl
@[simp] theorem State.skipIf_mem (c : Bool) : (s.skipIf c).mem = s.mem := by cases c <;> rfl
@[simp] theorem State.skipIf_fb (c : Bool) : (s.skipIf c).fb = s.fb := by cases c <;> rfl
@[simp] theorem State.skipIf_keys (c : Bool) : (s.skipIf c).keys = s.keys := by cases c <;> rfl
@[simp] theorem State.skipIf_keyLatch (c : Bool) : (s.skipIf c).keyLatch = s.keyLatch := by cases c <;> rfl
@[simp] theorem State.skipIf_draws (c : Bool) : (s.skipIf c).draws = s.draws := by cases c <;> rfl

end Sys2Proof.Machine
end

