-- ==== Sys2Proof/Laws/Memory.lean ====
section
/-!
SUPPORT. What the memory operations do: a read after a write (spec/20_memory.md R53), and that every operation
keeps the canonical form.
-/

namespace Sys2Proof.Machine

/-! ### The order of the list -/

theorem Memory.above_of_le {a b : Nat} (h : a ≤ b) {m : Memory} (hm : Memory.above b m = true) :
    Memory.above a m = true := by
  induction m with
  | nil => rfl
  | cons e m ih =>
    simp only [Memory.above, Bool.and_eq_true, decide_eq_true_eq] at hm ⊢
    exact ⟨by omega, ih hm.2⟩

/-- Below every listed address memory reads as after reset. -/
theorem Memory.read_of_above {a b : Nat} {m : Memory} (hm : Memory.above b m = true) (h : a ≤ b) :
    Memory.read m a = resetByte a := by
  induction m with
  | nil => rfl
  | cons e m ih =>
    simp only [Memory.above, Bool.and_eq_true, decide_eq_true_eq] at hm
    rw [Memory.read, if_neg (by omega)]
    exact ih hm.2

theorem Memory.above_insert {a b : Nat} {v : Byte} {m : Memory} (h : b < a)
    (hm : Memory.above b m = true) : Memory.above b (Memory.insert a v m) = true := by
  induction m with
  | nil => simp [Memory.insert, Memory.above, h]
  | cons e m ih =>
    simp only [Memory.above, Bool.and_eq_true, decide_eq_true_eq] at hm
    unfold Memory.insert
    split
    · simp [Memory.above, h, hm.1, hm.2]
    · split
      · simp [Memory.above, h, hm.2]
      · simp [Memory.above, hm.1, ih hm.2]

theorem Memory.above_erase {a b : Nat} {m : Memory} (hm : Memory.above b m = true) :
    Memory.above b (Memory.erase a m) = true := by
  induction m with
  | nil => rfl
  | cons e m ih =>
    simp only [Memory.above, Bool.and_eq_true, decide_eq_true_eq] at hm
    unfold Memory.erase
    split
    · exact hm.2
    · simp [Memory.above, hm.1, ih hm.2]

/-! ### Reading after an insertion or an erasure -/

theorem Memory.read_insert (m : Memory) (a x : Nat) (v : Byte) :
    Memory.read (Memory.insert a v m) x = if x = a then v else Memory.read m x := by
  induction m with
  | nil => rfl
  | cons e m ih =>
    unfold Memory.insert
    split
    · rfl
    · split
      · next h => subst h; simp only [Memory.read]; split <;> rfl
      · next h1 h2 =>
        simp only [Memory.read, ih]
        split
        · rw [if_neg (by omega)]
        · rfl

theorem Memory.read_erase {m : Memory} (hm : Memory.wf m = true) (a x : Nat) :
    Memory.read (Memory.erase a m) x = if x = a then resetByte a else Memory.read m x := by
  induction m with
  | nil =>
    simp only [Memory.erase, Memory.read]
    split
    · next h => rw [h]
    · rfl
  | cons e m ih =>
    simp only [Memory.wf, Bool.and_eq_true, decide_eq_true_eq] at hm
    unfold Memory.erase
    split
    · next h =>
      subst h
      simp only [Memory.read]
      split
      · next h => subst h; exact Memory.read_of_above hm.1.2 (Nat.le_refl _)
      · rfl
    · next h =>
      simp only [Memory.read, ih hm.2]
      split
      · rw [if_neg (by omega)]
      · rfl

/-! ### The canonical form is kept -/

theorem Memory.wf_insert {m : Memory} (hm : Memory.wf m = true) {a : Nat} {v : Byte}
    (ha : a < Config.memSize) (hv : v ≠ resetByte a) : Memory.wf (Memory.insert a v m) = true := by
  induction m with
  | nil => simp [Memory.insert, Memory.wf, Memory.above, ha, hv]
  | cons e m ih =>
    have hm' := hm
    simp only [Memory.wf, Bool.and_eq_true, decide_eq_true_eq, bne_iff_ne] at hm
    unfold Memory.insert
    split
    · next h =>
      simp only [Memory.wf, Memory.above, Bool.and_eq_true, decide_eq_true_eq, bne_iff_ne]
      exact ⟨⟨⟨ha, hv⟩, h, Memory.above_of_le (Nat.le_of_lt h) hm.1.2⟩, hm⟩
    · split
      · next h =>
        subst h
        simp only [Memory.wf, Bool.and_eq_true, decide_eq_true_eq, bne_iff_ne]
        exact ⟨⟨⟨ha, hv⟩, hm.1.2⟩, hm.2⟩
      · simp only [Memory.wf, Bool.and_eq_true, decide_eq_true_eq, bne_iff_ne]
        exact ⟨⟨hm.1.1, Memory.above_insert (by omega) hm.1.2⟩, ih hm.2⟩

theorem Memory.wf_erase {m : Memory} (hm : Memory.wf m = true) (a : Nat) :
    Memory.wf (Memory.erase a m) = true := by
  induction m with
  | nil => rfl
  | cons e m ih =>
    simp only [Memory.wf, Bool.and_eq_true, decide_eq_true_eq, bne_iff_ne] at hm
    unfold Memory.erase
    split
    · exact hm.2
    · simp only [Memory.wf, Bool.and_eq_true, decide_eq_true_eq, bne_iff_ne]
      exact ⟨⟨hm.1.1, Memory.above_erase hm.1.2⟩, ih hm.2⟩

/-- A write keeps the canonical form. -/
theorem Memory.wf_write {m : Memory} (hm : Memory.wf m = true) (a : Nat) (v : Byte) :
    Memory.wf (Memory.write m a v) = true := by
  unfold Memory.write
  split
  · exact hm
  · split
    · exact Memory.wf_erase hm a
    · next h1 h2 => exact Memory.wf_insert hm (by omega) h2

theorem Memory.wf_writeBytes {m : Memory} (hm : Memory.wf m = true) (a : Nat) (bs : List Byte) :
    Memory.wf (Memory.writeBytes m a bs) = true := by
  induction bs generalizing m a with
  | nil => exact hm
  | cons v vs ih => exact ih (Memory.wf_write hm a v) (a + 1)

theorem Memory.wf_reset : Memory.wf State.reset.mem = true := rfl

/-! ### Reading after a write -/

/-- A read after a write to a memory address gives the byte written there and the old byte elsewhere. -/
theorem Memory.read_write {m : Memory} (hm : Memory.wf m = true) {a : Nat} (ha : a < Config.memSize)
    (x : Nat) (v : Byte) :
    Memory.read (Memory.write m a v) x = if x = a then v else Memory.read m x := by
  unfold Memory.write
  rw [if_neg (by omega)]
  split
  · next h => rw [h]; exact Memory.read_erase hm a x
  · exact Memory.read_insert m a x v

/-- Outside the bytes written, memory reads as before; no range is needed. -/
theorem Memory.read_writeBytes_outside {m : Memory} (hm : Memory.wf m = true) (a x : Nat) (bs : List Byte)
    (h : x < a ∨ a + bs.length ≤ x) : Memory.read (Memory.writeBytes m a bs) x = Memory.read m x := by
  induction bs generalizing m a with
  | nil => rfl
  | cons v vs ih =>
    simp only [List.length_cons] at h
    rw [Memory.writeBytes, ih (Memory.wf_write hm a v) (a + 1) (by omega)]
    by_cases ha : a < Config.memSize
    · rw [Memory.read_write hm ha, if_neg (by omega)]
    · simp [Memory.write, Nat.not_lt.mp ha]

/-- Inside the bytes written, memory reads as written. -/
theorem Memory.read_writeBytes_inside {m : Memory} (hm : Memory.wf m = true) (a : Nat) (bs : List Byte)
    (hr : a + bs.length ≤ Config.memSize) (k : Nat) (hk : k < bs.length) :
    Memory.read (Memory.writeBytes m a bs) (a + k) = bs[k] := by
  induction bs generalizing m a k with
  | nil => exact absurd hk (Nat.not_lt_zero k)
  | cons v vs ih =>
    simp only [List.length_cons] at hr hk
    have ha : a < Config.memSize := by omega
    cases k with
    | zero =>
      rw [Memory.writeBytes,
        Memory.read_writeBytes_outside (Memory.wf_write hm a v) _ _ _ (by omega),
        Memory.read_write hm ha, if_pos (Nat.add_zero a)]
      rfl
    | succ j =>
      have := ih (Memory.wf_write hm a v) (a + 1) (by omega) j (by omega)
      rw [Memory.writeBytes, show a + (j + 1) = a + 1 + j by omega, this]
      rfl

/-! ### The font and what is unlisted -/

/-- From 0x200 up, an unlisted address reads as zero (R34, R51). -/
@[simp] theorem resetByte_program {a : Nat} (h : 0x200 ≤ a) : resetByte a = 0 := by
  unfold resetByte
  rw [if_pos h]

/-- Byte k of the font lies at `FONT_BASE + k` after reset (R34). -/
theorem resetByte_font {k : Nat} (h : k < 80) : resetByte (Config.fontBase + k) = font.getD k 0 := by
  have hb := Config.fontBase_add_80_le
  unfold resetByte
  rw [if_neg (by unfold Config.programOrigin; omega), if_pos (by omega)]
  congr 1
  omega

/-- Outside the font an unlisted address reads as zero (R34). -/
theorem resetByte_outside {a : Nat} (h : a < Config.fontBase ∨ Config.fontBase + 80 ≤ a) :
    resetByte a = 0 := by
  unfold resetByte
  split
  · rfl
  · rw [if_neg (by omega)]

/-- The font has 80 bytes (R62). -/
theorem font_length : font.length = 80 := by decide

/-! ### Ranges (R8, R52) -/

theorem inRange_zero (a : Nat) : inRange a 0 = true := rfl

theorem inRange_iff {a k : Nat} (hk : 0 < k) : inRange a k = true ↔ a + k ≤ 4096 := by
  simp [inRange, Nat.pos_iff_ne_zero.mp hk]

/-- In terms of the last address: `InRange(a, k)` iff `a + k - 1 <= 0xFFF` (R8). -/
theorem inRange_iff_last {a k : Nat} (hk : 0 < k) : inRange a k = true ↔ a + k - 1 ≤ 0xFFF := by
  rw [inRange_iff hk]
  omega

end Sys2Proof.Machine
end

