-- ==== Sys2Proof/Laws/Ops.lean ====
section
/-!
SUPPORT. What the register, stack, program counter and operand operations do, each said once
(spec/10_state.md R20 to R26, spec/00_scope.md R5).
-/

namespace Sys2Proof.Machine

/-! ### Registers -/

/-- Writing a register changes it and no other (R20). -/
theorem State.getV_setV (s : State) (x y : Reg) (b : Byte) :
    (s.setV x b).getV y = if y = x then b else s.getV y := by
  simp only [State.getV, State.setV, Vector.getElem_set, Fin.ext_iff, eq_comm]

@[simp] theorem State.getV_setV_self (s : State) (x : Reg) (b : Byte) : (s.setV x b).getV x = b := by
  simp [State.getV_setV]

/-- A result and a flag: VF holds the flag whatever x is (R5). -/
theorem State.getV_setResultAndFlag (s : State) (x y : Reg) (r f : Byte) :
    (s.setResultAndFlag x r f).getV y = if y = VF then f else if y = x then r else s.getV y := by
  simp only [State.setResultAndFlag, State.getV_setV]

/-- Two register files that read alike are equal. -/
theorem State.v_ext {s t : State} (h : ∀ r, t.getV r = s.getV r) : t.v = s.v := by
  apply Vector.ext
  intro k hk
  exact h ⟨k, hk⟩

/-- The registers after a load of V0..Vx (R155). -/
theorem registersLoaded_getV (s : State) (x r : Reg) :
    (registersLoaded s x)[r.val] = if r.val ≤ x.val then s.readByte (effAddr s r.val) else s.getV r := by
  simp [registersLoaded]

/-- How many bytes a store of V0..Vx stores (R154). -/
@[simp] theorem registersUpTo_length (s : State) (x : Reg) : (registersUpTo s x).length = x.val + 1 := by
  have := x.isLt
  simp only [registersUpTo, rangeCount, List.length_take, Vector.length_toList]
  omega

/-- The k-th byte of V0..Vx is V[k] (R154). -/
theorem registersUpTo_get (s : State) (x : Reg) (k : Nat) (hk : k < (registersUpTo s x).length) :
    (registersUpTo s x)[k] = s.getV ⟨k, by rw [registersUpTo_length] at hk; have := x.isLt; omega⟩ := by
  simp [registersUpTo, State.getV]

@[simp] theorem bcdDigits_length (b : Byte) : (bcdDigits b).length = 3 := rfl

/-! ### The call stack -/

/-- A push writes the cell at SP and no other (R112). -/
theorem State.cell_push (s : State) (w : Word) (h : s.sp.val < 16)
    (k : Fin 16) : (s.push w h).cell k = if k.val = s.sp.val then w else s.cell k := by
  simp only [State.cell, State.push, Vector.getElem_set, eq_comm]

/-! ### Program counter -/

/-- The address after the next instruction word, where it does not wrap (R97). -/
theorem toNat_add_two {w : Word} (h : w.toNat < 0xFFFE) : (w + 2).toNat = w.toNat + 2 := by
  rw [BitVec.toNat_add, show (2 : Word).toNat = 2 from rfl]
  omega

theorem toNat_add_four {w : Word} (h : w.toNat < 0xFFFC) : (w + 4).toNat = w.toNat + 4 := by
  rw [BitVec.toNat_add, show (4 : Word).toNat = 4 from rfl]
  omega

theorem State.advance_eq (s : State) : s.advance = { s with pc := s.pc + 2 } := rfl

@[simp] theorem zextAddr_toNat (nnn : Addr) : (zextAddr nnn).toNat = nnn.toNat := by
  have := nnn.isLt
  simp only [zextAddr, BitVec.toNat_setWidth]
  omega

@[simp] theorem zextByte_toNat (b : Byte) : (zextByte b).toNat = b.toNat := by
  have := b.isLt
  simp only [zextByte, BitVec.toNat_setWidth]
  omega

/-- The target of Bnnn is the plain sum: it cannot wrap (R117). -/
theorem jumpOffsetTarget_toNat (s : State) (nnn : Addr) :
    (jumpOffsetTarget s nnn).toNat = nnn.toNat + (s.getV 0).toNat := by
  have h1 := nnn.isLt
  have h2 := (s.getV 0).isLt
  rw [jumpOffsetTarget, BitVec.toNat_add, zextAddr_toNat, zextByte_toNat]
  omega

/-- The address of a glyph, a number below 0x200 (R141 (5), R152). -/
theorem glyphAddr_toNat {d : Nat} (h : d < 16) : (glyphAddr d).toNat = Config.fontBase + 5 * d := by
  have := Config.fontBase_add_80_le
  rw [glyphAddr, BitVec.toNat_ofNat]
  omega

theorem lowNibble_lt (b : Byte) : lowNibble b < 16 := Nat.mod_lt _ (by decide)

/-! ### The keypad -/

/-- A register names a key exactly when it is at most 15 (R178, R179). -/
theorem keyNumber_eq_none {b : Byte} : keyNumber b = none ↔ 15 < b.toNat := by
  unfold keyNumber
  split
  · simp; omega
  · simp; omega

theorem keyNumber_eq_some {b : Byte} {k : Key} : keyNumber b = some k ↔ b.toNat = k.val := by
  unfold keyNumber
  split
  · rw [Option.some.injEq, Fin.ext_iff]
  · have := k.isLt
    simp
    omega

/-! ### Flags (R22) -/

@[simp] theorem flagByte_true : flagByte true = 1 := rfl
@[simp] theorem flagByte_false : flagByte false = 0 := rfl

theorem sumByte_toNat (a b : Byte) : (sumByte a b).toNat = (a.toNat + b.toNat) % 256 := by
  simp [sumByte]

theorem differenceByte_toNat (a b : Byte) :
    (differenceByte a b).toNat = if b.toNat ≤ a.toNat then a.toNat - b.toNat else a.toNat + 256 - b.toNat := by
  have ha := a.isLt
  have hb := b.isLt
  rw [differenceByte, BitVec.toNat_ofNat]
  split <;> omega

/-- An `if c: skip else: next` never touches an accessor (R113). -/
@[simp] theorem State.skipIf_getV (s : State) (c : Bool) (r : Reg) : (s.skipIf c).getV r = s.getV r := by
  cases c <;> rfl

@[simp] theorem State.skipIf_cell (s : State) (c : Bool) (k : Fin 16) :
    (s.skipIf c).cell k = s.cell k := by cases c <;> rfl

@[simp] theorem State.skipIf_readByte (s : State) (c : Bool) (a : Nat) :
    (s.skipIf c).readByte a = s.readByte a := by cases c <;> rfl

@[simp] theorem State.skipIf_pixel (s : State) (c : Bool) (qx : Fin Config.fbW) (qy : Fin Config.fbH) :
    (s.skipIf c).pixel qx qy = s.pixel qx qy := by cases c <;> rfl

@[simp] theorem State.skipIf_keyPressed (s : State) (c : Bool) (k : Key) :
    (s.skipIf c).keyPressed k = s.keyPressed k := by cases c <;> rfl

/-! ### The timers (R213) -/

/-- One tick takes one off, and stops at zero (R213). -/
theorem countDown_toNat (b : Byte) : (countDown b).toNat = b.toNat - 1 := by
  have hb := b.isLt
  unfold countDown
  split
  · rw [BitVec.toNat_sub, show (1 : Byte).toNat = 1 from rfl]
    omega
  · omega

/-! ### The keypad agent (R173) -/

theorem State.keyPressed_pressKey (s : State) (k j : Key) :
    (s.pressKey k).keyPressed j = if j = k then true else s.keyPressed j := by
  unfold State.pressKey
  split
  · split
    · next h1 h2 => rw [h2]; exact h1
    · rfl
  · simp only [State.keyPressed, Vector.getElem_set, Fin.ext_iff, eq_comm]

theorem State.keyPressed_releaseKey (s : State) (k j : Key) :
    (s.releaseKey k).keyPressed j = if j = k then false else s.keyPressed j := by
  simp only [State.keyPressed, State.releaseKey, Vector.getElem_set, Fin.ext_iff, eq_comm]

/-! ### Every byte of memory (R53) -/

/-- Storing bytes changes nothing outside them. -/
theorem State.readByte_writeBytes_outside {s : State} (hm : Memory.wf s.mem = true) (a x : Nat)
    (bs : List Byte) (h : x < a ∨ a + bs.length ≤ x) : (s.writeBytes a bs).readByte x = s.readByte x :=
  Memory.read_writeBytes_outside hm a x bs h

/-- Inside the stored bytes memory reads as stored. -/
theorem State.readByte_writeBytes_inside {s : State} (hm : Memory.wf s.mem = true) (a : Nat)
    (bs : List Byte) (hr : a + bs.length ≤ Config.memSize) (k : Nat) (hk : k < bs.length) :
    (s.writeBytes a bs).readByte (a + k) = bs[k] :=
  Memory.read_writeBytes_inside hm a bs hr k hk

end Sys2Proof.Machine
end

