-- ==== Sys2Proof/Laws/Framebuffer.lean ====
section
/-!
SUPPORT. What the framebuffer commands do, pixel by pixel (spec/43_peripheral_io.md R170, R171, R177). No two pixels of
one draw land on the same place (8 < FB_W, 15 < FB_H), so the loops toggle each pixel of the sprite once.
-/

namespace Sys2Proof.Machine

@[simp] theorem Framebuffer.pixel_blank (qx : Fin Config.fbW) (qy : Fin Config.fbH) :
    Framebuffer.blank.pixel qx qy = false := by
  simp [Framebuffer.pixel, Framebuffer.blank]

/-- A flip toggles one pixel and no other (R171). -/
theorem Framebuffer.pixel_flip (f : Framebuffer) (ax qx : Fin Config.fbW) (ay qy : Fin Config.fbH) :
    (f.flip ax ay).pixel qx qy = if qx = ax ∧ qy = ay then !f.pixel qx qy else f.pixel qx qy := by
  simp only [Framebuffer.pixel, Framebuffer.flip, Vector.getElem_set, Fin.ext_iff]
  by_cases hy : ay.val = qy.val
  · by_cases hx : ax.val = qx.val
    · simp [hy, hx]
    · simp [hy, hx, Ne.symm hx]
  · simp [hy, Ne.symm hy]

/-- Two framebuffers that read alike are equal. -/
theorem Framebuffer.pixel_ext {f g : Framebuffer} (h : ∀ qx qy, f.pixel qx qy = g.pixel qx qy) : f = g := by
  apply Vector.ext
  intro y hy
  apply Vector.ext
  intro x hx
  exact h ⟨x, hx⟩ ⟨y, hy⟩

/-! ### One row -/

/-- Whether the first `m` bits of a row put a 1 on a pixel. -/
def rowHas (px py m : Nat) (b : Byte) (qx : Fin Config.fbW) (qy : Fin Config.fbH) : Prop :=
  ∃ k < m, column (px + k) = qx ∧ line py = qy ∧ b.getLsbD (7 - k) = true

theorem column_inj {px j k : Nat} (hj : j < 8) (hk : k < 8) (h : column (px + j) = column (px + k)) : j = k := by
  simp only [column, Fin.mk.injEq, Config.fbW] at h
  omega

theorem line_inj {py j k : Nat} (hj : j < 16) (hk : k < 16) (h : line (py + j) = line (py + k)) : j = k := by
  simp only [line, Fin.mk.injEq, Config.fbH] at h
  omega

/-- After `m` turns of the loop of R171: each pixel of the row is toggled, and `col` says whether one of them
was set. -/
theorem xorPixel_loop (f : Framebuffer) (px py m : Nat) (b : Byte) (hm : m ≤ 8) :
    (∀ qx qy, ((List.range m).foldl (xorPixel px py b) (f, false)).1.pixel qx qy = true ↔
      ¬ (f.pixel qx qy = true ↔ rowHas px py m b qx qy)) ∧
    (((List.range m).foldl (xorPixel px py b) (f, false)).2 = true ↔
      ∃ qx qy, f.pixel qx qy = true ∧ rowHas px py m b qx qy) := by
  induction m with
  | zero =>
    refine ⟨fun qx qy => ?_, ?_⟩
    · simp [rowHas]
    · simp [rowHas]
  | succ m ih =>
    obtain ⟨ihp, ihc⟩ := ih (by omega)
    have hfresh : ¬ rowHas px py m b (column (px + m)) (line py) := by
      rintro ⟨k, hk, hc, -, -⟩
      have := column_inj (by omega) (by omega) hc
      omega
    have hsucc : ∀ qx qy, rowHas px py (m + 1) b qx qy ↔ rowHas px py m b qx qy ∨
        (column (px + m) = qx ∧ line py = qy ∧ b.getLsbD (7 - m) = true) := by
      intro qx qy
      constructor
      · rintro ⟨k, hk, h⟩
        rcases Nat.lt_succ_iff_lt_or_eq.mp hk with hk | rfl
        · exact .inl ⟨k, hk, h⟩
        · exact .inr h
      · rintro (⟨k, hk, h⟩ | h)
        · exact ⟨k, by omega, h⟩
        · exact ⟨m, by omega, h⟩
    rw [List.range_succ, List.foldl_append]
    simp only [List.foldl_cons, List.foldl_nil]
    generalize hacc : (List.range m).foldl (xorPixel px py b) (f, false) = acc at ihp ihc ⊢
    have hsame : acc.1.pixel (column (px + m)) (line py) = f.pixel (column (px + m)) (line py) := by
      rw [Bool.eq_iff_iff, ihp]
      simp [hfresh]
    unfold xorPixel
    by_cases hb : b.getLsbD (7 - m) = true
    · rw [if_pos hb]
      refine ⟨fun qx qy => ?_, ?_⟩
      · simp only [Framebuffer.pixel_flip, hsucc, hb, and_true]
        by_cases hq : qx = column (px + m) ∧ qy = line py
        · obtain ⟨rfl, rfl⟩ := hq
          simp [hsame]
        · have := ihp qx qy
          rw [if_neg hq, this]
          have hq' : ¬ (column (px + m) = qx ∧ line py = qy) := fun h => hq ⟨h.1.symm, h.2.symm⟩
          simp [hq']
      · simp only [Bool.or_eq_true, ihc, hsucc, hb, and_true, hsame]
        constructor
        · rintro (⟨qx, qy, h1, h2⟩ | h)
          · exact ⟨qx, qy, h1, .inl h2⟩
          · exact ⟨column (px + m), line py, h, .inr ⟨rfl, rfl⟩⟩
        · rintro ⟨qx, qy, h1, h2 | ⟨rfl, rfl⟩⟩
          · exact .inl ⟨qx, qy, h1, h2⟩
          · exact .inr h1
    · rw [if_neg hb]
      refine ⟨fun qx qy => ?_, ?_⟩
      · rw [ihp, hsucc]; simp [hb]
      · rw [ihc]; simp only [hsucc]; simp [hb]

/-- `FbXorRow` (R171): each pixel of the row toggled, the collision bit set when one of them was set. -/
theorem fbXorRow_spec (f : Framebuffer) (px py : Nat) (b : Byte) :
    (∀ qx qy, (fbXorRow f px py b).1.pixel qx qy = true ↔
      ¬ (f.pixel qx qy = true ↔ rowHas px py 8 b qx qy)) ∧
    ((fbXorRow f px py b).2 = true ↔ ∃ qx qy, f.pixel qx qy = true ∧ rowHas px py 8 b qx qy) :=
  xorPixel_loop f px py 8 b (Nat.le_refl _)

/-! ### A whole sprite -/

/-- `fbXorSprite` (R177), for the row counts an opcode can hold: each pixel of the sprite toggled, collision
when one of them was set. -/
theorem fbXorSprite_spec (f : Framebuffer) (px py n : Nat) (sprite : Nat → Byte) (hn : n ≤ 15) :
    (∀ qx qy, (fbXorSprite f px py n sprite).1.pixel qx qy = true ↔
      ¬ (f.pixel qx qy = true ↔ ∃ r < n, rowHas px (py + r) 8 (sprite r) qx qy)) ∧
    ((fbXorSprite f px py n sprite).2 = true ↔
      ∃ qx qy, f.pixel qx qy = true ∧ ∃ r < n, rowHas px (py + r) 8 (sprite r) qx qy) := by
  induction n with
  | zero => simp [fbXorSprite]
  | succ n ih =>
    obtain ⟨ihp, ihc⟩ := ih (by omega)
    unfold fbXorSprite at ihp ihc ⊢
    rw [List.range_succ, List.foldl_append]
    simp only [List.foldl_cons, List.foldl_nil]
    generalize (List.range n).foldl (xorSpriteRow px py sprite) (f, false) = acc at ihp ihc ⊢
    obtain ⟨hp, hc⟩ := fbXorRow_spec acc.1 px (py + n) (sprite n)
    have hfresh : ∀ qx qy, rowHas px (py + n) 8 (sprite n) qx qy →
        ¬ ∃ r < n, rowHas px (py + r) 8 (sprite r) qx qy := by
      rintro qx qy ⟨_, -, -, h1, -⟩ ⟨r, hr, _, -, -, h2, -⟩
      have := line_inj (py := py) (by omega) (by omega) (h1.trans h2.symm)
      omega
    have hsucc : ∀ qx qy, (∃ r < n + 1, rowHas px (py + r) 8 (sprite r) qx qy) ↔
        (∃ r < n, rowHas px (py + r) 8 (sprite r) qx qy) ∨ rowHas px (py + n) 8 (sprite n) qx qy := by
      intro qx qy
      constructor
      · rintro ⟨r, hr, h⟩
        rcases Nat.lt_succ_iff_lt_or_eq.mp hr with hr | rfl
        · exact .inl ⟨r, hr, h⟩
        · exact .inr h
      · rintro (⟨r, hr, h⟩ | h)
        · exact ⟨r, by omega, h⟩
        · exact ⟨n, by omega, h⟩
    have hsame : ∀ qx qy, rowHas px (py + n) 8 (sprite n) qx qy →
        (acc.1.pixel qx qy = true ↔ f.pixel qx qy = true) := by
      intro qx qy h
      rw [ihp]
      simp only [hfresh qx qy h, iff_false, Classical.not_not]
    unfold xorSpriteRow
    refine ⟨fun qx qy => ?_, ?_⟩
    · rw [hp, hsucc]
      by_cases hr : rowHas px (py + n) 8 (sprite n) qx qy
      · simp only [hr, hsame qx qy hr, or_true]
      · simp only [hr, ihp, or_false, iff_false, Classical.not_not]
    · simp only [Bool.or_eq_true, ihc, hc, hsucc]
      constructor
      · rintro (⟨qx, qy, h1, h2⟩ | ⟨qx, qy, h1, h2⟩)
        · exact ⟨qx, qy, h1, .inl h2⟩
        · exact ⟨qx, qy, (hsame qx qy h2).mp h1, .inr h2⟩
      · rintro ⟨qx, qy, h1, h2 | h2⟩
        · exact .inl ⟨qx, qy, h1, h2⟩
        · exact .inr ⟨qx, qy, (hsame qx qy h2).mpr h1, h2⟩

/-- A draw leaves every pixel outside the rows of the sprite alone, for any row count (R177). -/
theorem fbXorSprite_outside (f : Framebuffer) (px py n : Nat) (sprite : Nat → Byte) (qx : Fin Config.fbW)
    (qy : Fin Config.fbH) (h : ¬ ∃ r < n, rowHas px (py + r) 8 (sprite r) qx qy) :
    (fbXorSprite f px py n sprite).1.pixel qx qy = f.pixel qx qy := by
  induction n with
  | zero => rfl
  | succ n ih =>
    have ih := ih fun ⟨r, hr, hh⟩ => h ⟨r, by omega, hh⟩
    unfold fbXorSprite at ih ⊢
    rw [List.range_succ, List.foldl_append, ← ih, Bool.eq_iff_iff]
    have hn : ¬ rowHas px (py + n) 8 (sprite n) qx qy := fun hh => h ⟨n, by omega, hh⟩
    refine ((fbXorRow_spec _ px (py + n) (sprite n)).1 qx qy).trans ?_
    simp only [hn, iff_false, Classical.not_not]

/-- The pixels of a sprite, as claims name them, are those its rows name. -/
theorem spriteHas_iff_rows (px py n : Nat) (sprite : Nat → Byte) (qx : Fin Config.fbW) (qy : Fin Config.fbH) :
    spriteHas px py n sprite qx qy ↔ ∃ r < n, rowHas px (py + r) 8 (sprite r) qx qy := Iff.rfl

end Sys2Proof.Machine
end

