-- ==== Sys2Proof/Laws/Exec.lean ====
section
/-!
SUPPORT. What a step can do, said once (spec/30_encoding.md R84), and what the fault-raising meanings do in each
of their two cases.
-/

namespace Sys2Proof.Machine

/-! ### Steps -/

theorem raise_eq_next {k : FaultKind} {w : Word} {s t : State} :
    raise k w s = .next t ↔ s.withFault k w = t := by
  simp [raise]

theorem State.fetchable_iff {s : State} : s.fetchable = true ↔ s.pc.toNat + 1 ≤ 0xFFF := by
  rw [State.fetchable, inRange_iff (by decide)]
  omega

theorem State.faulted_iff {s : State} : s.faulted = true ↔ s.fault.kind ≠ none := by
  unfold State.faulted
  cases s.fault.kind <;> simp

/-- A step that answers a next state: no fault was latched, and either the fetch faulted, or the word at `pc` is
an instruction that ran, or it is none and UndefinedOpcode was raised (R84). -/
theorem step_cases {s t : State} (h : step s = .next t) :
    s.faulted = false ∧
      ((s.fetchable = false ∧ t = s.withFault .addressOutOfRange 0) ∨
        (s.fetchable = true ∧ ∃ i, decode s.fetchWord = .ok i ∧ exec i s = .next t) ∨
        (s.fetchable = true ∧ ∃ e, decode s.fetchWord = .error e ∧
          t = s.withFault .undefinedOpcode s.fetchWord)) := by
  unfold step execute at h
  split at h
  · cases h
  · next hf =>
    refine ⟨by simpa using hf, ?_⟩
    split at h
    · next hr =>
      unfold executeWord at h
      split at h
      · next i hi => exact .inr (.inl ⟨hr, i, hi, h⟩)
      · next e he => exact .inr (.inr ⟨hr, e, he, (raise_eq_next.mp h).symm⟩)
    · next hr => exact .inl ⟨by simpa using hr, (raise_eq_next.mp h).symm⟩

/-! ### The meanings that can raise a fault -/

theorem execRet_of_pos {s : State} (h : 0 < s.sp.val) : execRet s = .next (s.popToPc h) := dif_pos h

theorem execRet_of_empty {s : State} (h : s.sp.val = 0) :
    execRet s = .next (s.withFault .stackUnderflow (encode .ret)) := dif_neg (by omega)

theorem execCall_of_lt {s : State} (nnn : Addr) (h : s.sp.val < 16) :
    execCall nnn s = .next ((s.push (s.pc + 2) h).setPc (zextAddr nnn)) := dif_pos h

theorem execCall_of_full {s : State} (nnn : Addr) (h : s.sp.val = 16) :
    execCall nnn s = .next (s.withFault .stackOverflow (encode (.callNnn nnn))) := dif_neg (by omega)

theorem execLdB_of_range {s : State} (x : Reg) (h : effAddr s 0 + 3 ≤ 4096) :
    execLdB x s = .next (s.writeBytes (effAddr s 0) (bcdDigits (s.getV x))).advance :=
  if_pos ((inRange_iff (by decide)).mpr h)

theorem execLdMemVx_of_range {s : State} (x : Reg) (h : effAddr s 0 + rangeCount x ≤ 4096) :
    execLdMemVx x s = .next (s.writeBytes (effAddr s 0) (registersUpTo s x)).advance :=
  if_pos ((inRange_iff (Nat.succ_pos _)).mpr h)

theorem execLdVxMem_of_range {s : State} (x : Reg) (h : effAddr s 0 + rangeCount x ≤ 4096) :
    execLdVxMem x s = .next (s.setRegs (registersLoaded s x)).advance :=
  if_pos ((inRange_iff (Nat.succ_pos _)).mpr h)

theorem execDrw_of_range {s : State} (x y : Reg) (n : Nat) (h : inRange (effAddr s 0) n = true) :
    execDrw x y n s = .next (((s.setFb (drawing x y n s).1).setV VF
      (flagByte (drawing x y n s).2)).advance) := if_pos h

theorem execSkp_of_key {s : State} (x : Reg) {k : Key} (h : keyNumber (s.getV x) = some k) :
    execSkp x s = .next (s.skipIf (s.keyPressed k)) := by
  rw [execSkp, h]

theorem execSkp_of_none {s : State} (x : Reg) (h : keyNumber (s.getV x) = none) :
    execSkp x s = .next (s.withFault .keyIndexOutOfRange (encode (.skpVx x))) := by
  rw [execSkp, h]; rfl

theorem execSknp_of_key {s : State} (x : Reg) {k : Key} (h : keyNumber (s.getV x) = some k) :
    execSknp x s = .next (s.skipIf (!s.keyPressed k)) := by
  rw [execSknp, h]

theorem execSknp_of_none {s : State} (x : Reg) (h : keyNumber (s.getV x) = none) :
    execSknp x s = .next (s.withFault .keyIndexOutOfRange (encode (.sknpVx x))) := by
  rw [execSknp, h]; rfl

theorem execLdVxK_of_none {s : State} (x : Reg) (h : s.keyLatch = none) :
    execLdVxK x s = .next (s.afterKeyEvent.setAwait true) := by
  rw [execLdVxK, State.keyEvent, h]

theorem execLdVxK_of_some {s : State} (x : Reg) {k : Key} (h : s.keyLatch = some k) :
    execLdVxK x s =
      .next ((s.afterKeyEvent.setV x (BitVec.ofNat 8 k.val)).setAwait false).advance := by
  rw [execLdVxK, State.keyEvent, h]

/-! ### Frames -/

/-- A state changes only parts of a longer list if it changes only parts of a shorter one. -/
theorem OnlyChanges.mono {l l' : List Part} {s t : State} (h : OnlyChanges l s t) (hl : l ⊆ l') :
    OnlyChanges l' s t := fun p hp => h p fun hm => hp (hl hm)

/-- Raising a fault changes only the record (R206). -/
theorem withFault_onlyChanges (s : State) (k : FaultKind) (w : Word) :
    OnlyChanges [.fault] s (s.withFault k w) := by
  intro p hp
  cases p <;> simp_all [Part.same]

end Sys2Proof.Machine
end

