-- ==== Sys2Proof/Laws/PerInstr.lean ====
section
/-!
SUPPORT. Statements made for each instruction. Family TableRow: the word the encoder gives an instruction is of the
row of spec/opcode_table.json that LAWS.json gives its constructor (spec/30_encoding.md R95), whatever its operands.
-/

namespace Sys2Proof.Laws.TableRow

/-- The row named by the instruction's mnemonic is in the table and covers its word. -/
def Statement (i : Instr) : Prop :=
  ∃ r ∈ opcodeTable, r.mnemonic = i.mnemonic ∧ r.covers (encode i) = true

/-- A row that is in the table, has the mnemonic and covers the word. -/
theorem intro {i : Instr} (r : OpcodeRow) (hr : r ∈ opcodeTable) (hm : r.mnemonic = i.mnemonic)
    (hc : ((encode i) &&& r.mask).toNat = r.pattern.toNat) : Statement i :=
  ⟨r, hr, hm, (OpcodeRow.covers_iff r _).mpr hc⟩

theorem nnn_row (op : BitVec 4) (nnn : Addr) :
    (formatNNN op nnn &&& 0xF000).toNat = op.toNat * 4096 := by
  have := nnn.isLt
  rw [toNat_and_F000, toNat_formatNNN]
  omega

theorem xnn_row (op : BitVec 4) (x : Reg) (nn : Byte) :
    (formatXNN op x nn &&& 0xF000).toNat = op.toNat * 4096 := by
  have := nn.isLt
  have := x.isLt
  rw [toNat_and_F000, toNat_formatXNN]
  omega

theorem xss_row (op : BitVec 4) (x : Reg) (nn : Byte) :
    (formatXNN op x nn &&& 0xF0FF).toNat = op.toNat * 4096 + nn.toNat := by
  have := nn.isLt
  have := x.isLt
  rw [toNat_and_F0FF, toNat_formatXNN]
  omega

theorem xyn_row (op n : BitVec 4) (x y : Reg) :
    (formatXYN op x y n &&& 0xF000).toNat = op.toNat * 4096 := by
  have := n.isLt
  have := x.isLt
  have := y.isLt
  rw [toNat_and_F000, toNat_formatXYN]
  omega

theorem xys_row (op n : BitVec 4) (x y : Reg) :
    (formatXYN op x y n &&& 0xF00F).toNat = op.toNat * 4096 + n.toNat := by
  have := n.isLt
  have := x.isLt
  have := y.isLt
  rw [toNat_and_F00F, toNat_formatXYN]
  omega

theorem cls : Statement (.cls) :=
  intro ⟨"CLS", 0x00E0, 0xFFFF⟩ (by decide) rfl (rfl)

theorem ret : Statement (.ret) :=
  intro ⟨"RET", 0x00EE, 0xFFFF⟩ (by decide) rfl (rfl)

theorem jpNnn (nnn : Addr) : Statement (.jpNnn nnn) :=
  intro ⟨"JP_nnn", 0x1000, 0xF000⟩ (by decide) rfl (nnn_row _ nnn)

theorem callNnn (nnn : Addr) : Statement (.callNnn nnn) :=
  intro ⟨"CALL_nnn", 0x2000, 0xF000⟩ (by decide) rfl (nnn_row _ nnn)

theorem seVxNn (x : Reg) (nn : Byte) : Statement (.seVxNn x nn) :=
  intro ⟨"SE_Vx__nn", 0x3000, 0xF000⟩ (by decide) rfl (xnn_row _ x nn)

theorem sneVxNn (x : Reg) (nn : Byte) : Statement (.sneVxNn x nn) :=
  intro ⟨"SNE_Vx__nn", 0x4000, 0xF000⟩ (by decide) rfl (xnn_row _ x nn)

theorem seVxVy (x : Reg) (y : Reg) : Statement (.seVxVy x y) :=
  intro ⟨"SE_Vx__Vy", 0x5000, 0xF00F⟩ (by decide) rfl (xys_row _ _ x y)

theorem ldVxNn (x : Reg) (nn : Byte) : Statement (.ldVxNn x nn) :=
  intro ⟨"LD_Vx__nn", 0x6000, 0xF000⟩ (by decide) rfl (xnn_row _ x nn)

theorem addVxNn (x : Reg) (nn : Byte) : Statement (.addVxNn x nn) :=
  intro ⟨"ADD_Vx__nn", 0x7000, 0xF000⟩ (by decide) rfl (xnn_row _ x nn)

theorem ldVxVy (x : Reg) (y : Reg) : Statement (.ldVxVy x y) :=
  intro ⟨"LD_Vx__Vy", 0x8000, 0xF00F⟩ (by decide) rfl (xys_row _ _ x y)

theorem orVxVy (x : Reg) (y : Reg) : Statement (.orVxVy x y) :=
  intro ⟨"OR_Vx__Vy", 0x8001, 0xF00F⟩ (by decide) rfl (xys_row _ _ x y)

theorem andVxVy (x : Reg) (y : Reg) : Statement (.andVxVy x y) :=
  intro ⟨"AND_Vx__Vy", 0x8002, 0xF00F⟩ (by decide) rfl (xys_row _ _ x y)

theorem xorVxVy (x : Reg) (y : Reg) : Statement (.xorVxVy x y) :=
  intro ⟨"XOR_Vx__Vy", 0x8003, 0xF00F⟩ (by decide) rfl (xys_row _ _ x y)

theorem addVxVy (x : Reg) (y : Reg) : Statement (.addVxVy x y) :=
  intro ⟨"ADD_Vx__Vy", 0x8004, 0xF00F⟩ (by decide) rfl (xys_row _ _ x y)

theorem subVxVy (x : Reg) (y : Reg) : Statement (.subVxVy x y) :=
  intro ⟨"SUB_Vx__Vy", 0x8005, 0xF00F⟩ (by decide) rfl (xys_row _ _ x y)

theorem shrVx (x : Reg) (y : Reg) : Statement (.shrVx x y) :=
  intro ⟨"SHR_Vx", 0x8006, 0xF00F⟩ (by decide) rfl (xys_row _ _ x y)

theorem subnVxVy (x : Reg) (y : Reg) : Statement (.subnVxVy x y) :=
  intro ⟨"SUBN_Vx__Vy", 0x8007, 0xF00F⟩ (by decide) rfl (xys_row _ _ x y)

theorem shlVx (x : Reg) (y : Reg) : Statement (.shlVx x y) :=
  intro ⟨"SHL_Vx", 0x800E, 0xF00F⟩ (by decide) rfl (xys_row _ _ x y)

theorem sneVxVy (x : Reg) (y : Reg) : Statement (.sneVxVy x y) :=
  intro ⟨"SNE_Vx__Vy", 0x9000, 0xF00F⟩ (by decide) rfl (xys_row _ _ x y)

theorem ldINnn (nnn : Addr) : Statement (.ldINnn nnn) :=
  intro ⟨"LD_I__nnn", 0xA000, 0xF000⟩ (by decide) rfl (nnn_row _ nnn)

theorem jpV0Nnn (nnn : Addr) : Statement (.jpV0Nnn nnn) :=
  intro ⟨"JP_V0__nnn", 0xB000, 0xF000⟩ (by decide) rfl (nnn_row _ nnn)

theorem rndVxNn (x : Reg) (nn : Byte) : Statement (.rndVxNn x nn) :=
  intro ⟨"RND_Vx__nn", 0xC000, 0xF000⟩ (by decide) rfl (xnn_row _ x nn)

theorem drwVxVyN (x : Reg) (y : Reg) (n : Nat) : Statement (.drwVxVyN x y n) :=
  intro ⟨"DRW_Vx__Vy__n", 0xD000, 0xF000⟩ (by decide) rfl (xyn_row _ _ x y)

theorem skpVx (x : Reg) : Statement (.skpVx x) :=
  intro ⟨"SKP_Vx", 0xE09E, 0xF0FF⟩ (by decide) rfl (xss_row _ x _)

theorem sknpVx (x : Reg) : Statement (.sknpVx x) :=
  intro ⟨"SKNP_Vx", 0xE0A1, 0xF0FF⟩ (by decide) rfl (xss_row _ x _)

theorem ldVxDt (x : Reg) : Statement (.ldVxDt x) :=
  intro ⟨"LD_Vx__DT", 0xF007, 0xF0FF⟩ (by decide) rfl (xss_row _ x _)

theorem ldVxK (x : Reg) : Statement (.ldVxK x) :=
  intro ⟨"LD_Vx__K", 0xF00A, 0xF0FF⟩ (by decide) rfl (xss_row _ x _)

theorem ldDtVx (x : Reg) : Statement (.ldDtVx x) :=
  intro ⟨"LD_DT__Vx", 0xF015, 0xF0FF⟩ (by decide) rfl (xss_row _ x _)

theorem ldStVx (x : Reg) : Statement (.ldStVx x) :=
  intro ⟨"LD_ST__Vx", 0xF018, 0xF0FF⟩ (by decide) rfl (xss_row _ x _)

theorem addIVx (x : Reg) : Statement (.addIVx x) :=
  intro ⟨"ADD_I__Vx", 0xF01E, 0xF0FF⟩ (by decide) rfl (xss_row _ x _)

theorem ldFVx (x : Reg) : Statement (.ldFVx x) :=
  intro ⟨"LD_F__Vx", 0xF029, 0xF0FF⟩ (by decide) rfl (xss_row _ x _)

theorem ldBVx (x : Reg) : Statement (.ldBVx x) :=
  intro ⟨"LD_B__Vx", 0xF033, 0xF0FF⟩ (by decide) rfl (xss_row _ x _)

theorem ldMemVx (x : Reg) : Statement (.ldMemVx x) :=
  intro ⟨"LD__I___Vx", 0xF055, 0xF0FF⟩ (by decide) rfl (xss_row _ x _)

theorem ldVxMem (x : Reg) : Statement (.ldVxMem x) :=
  intro ⟨"LD_Vx___I", 0xF065, 0xF0FF⟩ (by decide) rfl (xss_row _ x _)

end Sys2Proof.Laws.TableRow
end

