-- ==== Sys2Proof/Tests/Slice0.lean ====
section
/-!
SUPPORT. The model's own tests. Expected results come from spec/95_test_vectors.md and the examples of the
instruction rules, not from a run of the model; words are written out from the encodings of
spec/30_encoding.md. After them, for every statement that has hypotheses, a witness that meets them.
-/

namespace Sys2Proof.Tests

open Sys2Proof Sys2Proof.Machine

/-! ### Small states -/

/-- The state after reset with some registers written, V0 first. -/
def withRegs (vs : List Byte) : State :=
  { State.reset with v := Vector.ofFn fun k : Fin 16 => vs.getD k.val 0 }

/-- The same with VF written too. -/
def withRegsVf (vs : List Byte) (vf : Byte) : State := (withRegs vs).setV VF vf

/-- One step of the word `w`, stored at `pc`. -/
def run (w : Nat) (s : State) : State := (s.withFetchWord 16 w).afterExecute

/-- The fault record as the spec writes it: code, opcode, pc. -/
def record (s : State) : Nat × Word × Word := (s.fault.code, s.fault.opcode, s.fault.pc)

/-- A state whose `SP` and top cell are given. -/
def withStack (n : Fin 17) (top : Word) : State :=
  { State.reset with sp := n, stack := Vector.ofFn fun k : Fin 16 => if k.val + 1 = n.val then top else 0 }

/-- A state whose index register is `w`. -/
def indexed (w : Word) : State := { State.reset with i := w }

/-! ### WellFormed refuses what it should -/

theorem test_wf_refuses_row_count_16 : Instr.wf (.drwVxVyN 0 0 16) = false := by decide
theorem test_wf_takes_row_count_15 : Instr.wf (.drwVxVyN 15 15 15) = true := by decide

/-! ### Decoding: one word for every constructor (R95; spec/95_test_vectors.md 2.2) -/

theorem test_decode_bit_by_bit :
    decode 0b0000000011100000#16 = .ok .cls ∧ decode 0b0000000011101110#16 = .ok .ret ∧
    decode 0b0001001000110100#16 = .ok (.jpNnn 0x234) ∧
    decode 0b1000101010110100#16 = .ok (.addVxVy 0xA 0xB) ∧
    decode 0b1101000100101111#16 = .ok (.drwVxVyN 1 2 15) ∧
    decode 0b1110000110100001#16 = .ok (.sknpVx 1) ∧
    decode 0b1111001001100101#16 = .ok (.ldVxMem 2) := by decide

theorem test_decode_tags_0_to_7 :
    decode 0x00E0 = .ok .cls ∧ decode 0x00EE = .ok .ret ∧ decode 0x1234 = .ok (.jpNnn 0x234) ∧
    decode 0x2ABC = .ok (.callNnn 0xABC) ∧ decode 0x3F01 = .ok (.seVxNn 0xF 0x01) ∧
    decode 0x4A00 = .ok (.sneVxNn 0xA 0x00) ∧ decode 0x5AB0 = .ok (.seVxVy 0xA 0xB) ∧
    decode 0x6A2F = .ok (.ldVxNn 0xA 0x2F) ∧ decode 0x70FF = .ok (.addVxNn 0x0 0xFF) := by decide

theorem test_decode_tags_8_and_9 :
    decode 0x8AB0 = .ok (.ldVxVy 0xA 0xB) ∧ decode 0x8AB1 = .ok (.orVxVy 0xA 0xB) ∧
    decode 0x8AB2 = .ok (.andVxVy 0xA 0xB) ∧ decode 0x8AB3 = .ok (.xorVxVy 0xA 0xB) ∧
    decode 0x8AB4 = .ok (.addVxVy 0xA 0xB) ∧ decode 0x8AB5 = .ok (.subVxVy 0xA 0xB) ∧
    decode 0x8AB6 = .ok (.shrVx 0xA 0xB) ∧ decode 0x8AB7 = .ok (.subnVxVy 0xA 0xB) ∧
    decode 0x8ABE = .ok (.shlVx 0xA 0xB) ∧ decode 0x9AB0 = .ok (.sneVxVy 0xA 0xB) := by decide

theorem test_decode_tags_A_to_E :
    decode 0xAFFF = .ok (.ldINnn 0xFFF) ∧ decode 0xB2F0 = .ok (.jpV0Nnn 0x2F0) ∧
    decode 0xC10F = .ok (.rndVxNn 0x1 0x0F) ∧ decode 0xDF12 = .ok (.drwVxVyN 0xF 0x1 2) ∧
    decode 0xE19E = .ok (.skpVx 0x1) ∧ decode 0xE1A1 = .ok (.sknpVx 0x1) := by decide

theorem test_decode_tag_F :
    decode 0xF207 = .ok (.ldVxDt 0x2) ∧ decode 0xF30A = .ok (.ldVxK 0x3) ∧
    decode 0xF215 = .ok (.ldDtVx 0x2) ∧ decode 0xF218 = .ok (.ldStVx 0x2) ∧
    decode 0xF11E = .ok (.addIVx 0x1) ∧ decode 0xF029 = .ok (.ldFVx 0x0) ∧
    decode 0xF033 = .ok (.ldBVx 0x0) ∧ decode 0xFF55 = .ok (.ldMemVx 0xF) ∧
    decode 0xFF65 = .ok (.ldVxMem 0xF) := by decide

/-- spec/95_test_vectors.md 2.2: words with no operation. -/
theorem test_decode_undefined_words :
    [0x0000, 0x00E1, 0x01E0, 0x0FFF, 0x5AB1, 0x5001, 0x9ABF, 0x8AB8, 0x8ABD, 0x8ABF, 0xE09F, 0xE000, 0xF000,
      0xF030, 0xF075, 0xF085, 0xFFFF].all
      (fun w : Word => decide (decode w = .error (.undefinedOpcode w))) = true := by decide

/-- spec/95_test_vectors.md E1. -/
theorem test_fields_of_D12F :
    opField 0xD12F = 0xD ∧ xField 0xD12F = 1 ∧ yField 0xD12F = 2 ∧ nField 0xD12F = 0xF ∧
    nnField 0xD12F = 0x2F ∧ nnnField 0xD12F = 0x12F := by decide

theorem test_too_few_bytes : decodeBytes [0x12] = .error .truncated ∧ decodeBytes [] = .error .truncated := by
  decide

theorem test_host_view : decodeTableWord 16 0x8124 = some (.addVxVy 1 2) ∧ decodeTableWord 16 0x5001 = none := by
  decide

/-! ### Control transfer (spec/95_test_vectors.md 2.3) -/

theorem test_ret_pops_cell_15 :
    (run 0x00EE { withStack 16 0x0ABC with pc := 0x400 }).pc = 0x0ABC ∧
    (run 0x00EE { withStack 16 0x0ABC with pc := 0x400 }).sp = 15 := by decide
theorem test_ret_underflow : record (run 0x00EE State.reset) = (3, 0x00EE, 0x0200) := by decide
theorem test_jp : (run 0x1234 State.reset).pc = 0x0234 := by decide
theorem test_call : (run 0x2ABC (withStack 15 0)).pc = 0x0ABC ∧ (run 0x2ABC (withStack 15 0)).sp = 16 ∧
    (run 0x2ABC (withStack 15 0)).cell 15 = 0x0202 := by decide
theorem test_call_overflow : record (run 0x2ABC (withStack 16 0)) = (2, 0x2ABC, 0x0200) := by decide
theorem test_se_byte : (run 0x3010 (withRegs [0x10])).pc = 0x204 ∧ (run 0x3010 (withRegs [0x11])).pc = 0x202 := by
  decide
theorem test_se_byte_at_the_end : (run 0x3000 { State.reset with pc := 0xFFE }).pc = 0x1002 := by decide
theorem test_sne_byte : (run 0x4100 (withRegs [0, 0])).pc = 0x202 ∧ (run 0x4100 (withRegs [0, 0xFF])).pc = 0x204 := by
  decide
theorem test_se_reg : (run 0x5120 (withRegs [0, 1, 2])).pc = 0x202 ∧ (run 0x5110 (withRegs [0, 0x37])).pc = 0x204 := by
  decide
theorem test_sne_reg : (run 0x9120 (withRegs [0, 1, 2])).pc = 0x204 ∧ (run 0x9110 (withRegs [0, 0x37])).pc = 0x202 := by
  decide
theorem test_jp_v0 : (run 0xBFFF (withRegs [0xFF])).pc = 0x10FE := by decide
theorem test_jp_v0_not_vx : (run 0xB2F0 (withRegs [0, 0, 0x55])).pc = 0x02F0 := by decide

/-! ### Load, arithmetic, logic, shift (spec/95_test_vectors.md 2.4) -/

/-- V1, VF and pc after a word. -/
def v1vf (w : Nat) (s : State) : Byte × Byte × Word := ((run w s).getV 1, (run w s).getV VF, (run w s).pc)

theorem test_ld_byte : (run 0x6A2F State.reset).getV 0xA = 0x2F := by decide
theorem test_add_byte_sets_no_flag : (run 0x7001 (withRegs [0xFF])).getV 0 = 0 ∧
    (run 0x7001 (withRegs [0xFF])).getV VF = 0 := by decide
theorem test_ld_reg : v1vf 0x8120 (withRegs [0, 0x01, 0x99]) = (0x99, 0, 0x202) := by decide
theorem test_or : v1vf 0x8121 (withRegsVf [0, 0xF0, 0x0F] 1) = (0xFF, 1, 0x202) := by decide
theorem test_and : v1vf 0x8122 (withRegsVf [0, 0xF0, 0x3C] 1) = (0x30, 1, 0x202) := by decide
theorem test_xor : v1vf 0x8123 (withRegsVf [0, 0xF0, 0x3C] 1) = (0xCC, 1, 0x202) := by decide
theorem test_add_overflow : v1vf 0x8124 (withRegs [0, 0xFF, 0x01]) = (0x00, 1, 0x202) := by decide
theorem test_add_into_vf_keeps_the_flag : (run 0x8F14 (withRegsVf [0, 0x20] 0x10)).getV VF = 0 := by decide
theorem test_sub_borrow : v1vf 0x8125 (withRegs [0, 0x01, 0x05]) = (0xFC, 0, 0x202) := by decide
theorem test_sub_equal : v1vf 0x8125 (withRegs [0, 0x33, 0x33]) = (0x00, 1, 0x202) := by decide
theorem test_shr : v1vf 0x8106 (withRegs [0x55, 0x05]) = (0x02, 1, 0x202) := by decide
theorem test_shr_into_vf : (run 0x8F06 (withRegsVf [] 0x02)).getV VF = 0 := by decide
theorem test_subn : v1vf 0x8127 (withRegs [0, 0x05, 0x01]) = (0xFC, 0, 0x202) := by decide
theorem test_subn_no_borrow : v1vf 0x8127 (withRegs [0, 0x01, 0x05]) = (0x04, 1, 0x202) := by decide
theorem test_shl : v1vf 0x810E (withRegs [0x55, 0x81]) = (0x02, 1, 0x202) := by decide
theorem test_shl_into_vf : (run 0x8F0E (withRegsVf [] 0x40)).getV VF = 0 := by decide

/-! ### Index and memory (spec/95_test_vectors.md 2.5) -/

theorem test_ld_i : (run 0xAFFF State.reset).i = 0x0FFF := by decide
theorem test_add_i_wraps_at_16_bits : (run 0xF11E { withRegs [0, 0x02] with i := 0xFFFF }).i = 0x0001 := by decide
theorem test_add_i_leaves_memory : (run 0xF11E { withRegs [0, 0x01] with i := 0x0FFF }).i = 0x1000 := by decide
theorem test_ld_f_uses_the_low_nibble : (run 0xF029 (withRegs [0x1A])).i = BitVec.ofNat 16 (Config.fontBase + 50) :=
  rfl
theorem test_bcd_last_legal_address :
    (run 0xF033 { withRegs [0xEA] with i := 0xFFD }).mem =
      [(0x200, 0xF0), (0x201, 0x33), (0xFFD, 2), (0xFFE, 3), (0xFFF, 4)] := by decide
theorem test_bcd_out_of_range : record (run 0xF033 { withRegs [0x09] with i := 0xFFE }) = (4, 0xF033, 0x0200) := by
  decide
theorem test_store_registers :
    (run 0xF255 { withRegs [0x11, 0x22, 0x33, 0x44] with i := 0x400 }).mem =
      [(0x200, 0xF2), (0x201, 0x55), (0x400, 0x11), (0x401, 0x22), (0x402, 0x33)] := by decide
theorem test_store_out_of_range : record (run 0xFF55 { State.reset with i := 0xFF1 }) = (4, 0xFF55, 0x0200) := by
  decide
theorem test_load_registers :
    let t := run 0xF265 { withRegs [9, 9, 9, 0x77] with i := 0x300, mem := [(0x300, 2), (0x301, 3), (0x302, 4), (0x303, 5)] }
    (t.getV 0, t.getV 1, t.getV 2, t.getV 3, t.i) = (2, 3, 4, 0x77, 0x300) := by decide
theorem test_load_out_of_range : record (run 0xFF65 { State.reset with i := 0xFF1 }) = (4, 0xFF65, 0x0200) := by
  decide

/-! ### Peripheral input and output (spec/95_test_vectors.md 2.6) -/

/-- A framebuffer with the named pixels set. -/
def lit (ps : List (Fin 64 × Fin 32)) : Framebuffer :=
  ps.foldl (fun f p => f.flip p.1 p.2) Framebuffer.blank

/-- V0, V1, the sprite bytes at 0x300 and the pixels that are set before a draw. -/
def drawing0 (v0 v1 : Byte) (sprite : List Byte) (ps : List (Fin 64 × Fin 32)) : State :=
  { (withRegs [v0, v1]).writeBytes 0x300 sprite with i := 0x300, fb := lit ps }

theorem test_cls : (run 0x00E0 { withRegsVf [] 1 with fb := lit [(0, 0), (63, 31)] }).fb = lit [] ∧
    (run 0x00E0 { withRegsVf [] 1 with fb := lit [(0, 0), (63, 31)] }).getV VF = 1 := by decide
theorem test_drw_wraps_on_both_axes :
    (run 0xD012 (drawing0 0xFF 0xFF [0xC0, 0x80] [])).fb = lit [(63, 31), (0, 31), (63, 0)] ∧
    (run 0xD012 (drawing0 0xFF 0xFF [0xC0, 0x80] [])).getV VF = 0 := by decide
theorem test_drw_partial_collision :
    (run 0xD011 (drawing0 0 0 [0xC0] [(0, 0)])).fb = lit [(1, 0)] ∧
    (run 0xD011 (drawing0 0 0 [0xC0] [(0, 0)])).getV VF = 1 := by decide
theorem test_rnd_masks : (run 0xC100 State.reset).getV 1 = 0 ∧ (run 0xC100 State.reset).draws = 1 := by
  refine ⟨?_, rfl⟩
  show Config.randomByte 0 &&& 0#8 = 0
  exact BitVec.and_zero
theorem test_skp : (run 0xE19E ((withRegs [0, 5]).pressKey 5)).pc = 0x204 ∧ (run 0xE19E (withRegs [0, 5])).pc = 0x202 := by
  decide
theorem test_skp_key_16 : record (run 0xE19E (withRegs [0, 0x10])) = (5, 0xE19E, 0x0200) := by decide
theorem test_sknp : (run 0xE1A1 ((withRegs [0, 15]).pressKey 15)).pc = 0x202 ∧
    (run 0xE1A1 (withRegs [0, 15])).pc = 0x204 := by decide
theorem test_sknp_key_255 : record (run 0xE1A1 (withRegs [0, 0xFF])) = (5, 0xE1A1, 0x0200) := by decide
theorem test_ld_dt_vx : (run 0xF215 (withRegs [0, 0, 0x3C])).dt = 0x3C := by decide
theorem test_ld_vx_dt : (run 0xF207 { State.reset with dt := 0x3C }).getV 2 = 0x3C := by decide
theorem test_ld_st_vx : (run 0xF218 (withRegs [0, 0, 5])).st = 5 := by decide
theorem test_wait_without_a_press : (run 0xF30A State.reset).await = true ∧ (run 0xF30A State.reset).pc = 0x200 := by
  decide
theorem test_wait_with_a_press :
    let t := run 0xF30A { State.reset with keyLatch := some 7, await := true }
    (t.getV 3, t.await, t.keyLatch, t.pc) = (7, false, none, 0x202) := by decide

/-! ### Faults and the other agents (spec/95_test_vectors.md 2.6 vector 30, 2.7, E8, E10) -/

theorem test_undefined_word : record (run 0x5001 (withStack 16 0)) = (1, 0x5001, 0x0200) := by decide
theorem test_fetch_past_the_end : record (run 0x2200 { withStack 16 0 with pc := 0xFFF }) = (4, 0x0000, 0x0FFF) := by
  decide
theorem test_latched : step { State.reset with fault := ⟨some .stackOverflow, 0x2200, 0x200⟩ } =
    .fault (.latched ⟨some .stackOverflow, 0x2200, 0x200⟩) := rfl
theorem test_ticks : ({ State.reset with dt := 2, st := 1 } : State).timerTick.dt = 1 ∧
    ({ State.reset with dt := 1, st := 0 } : State).timerTick.st = 0 := by decide
theorem test_rom_too_large : State.reset.loadRom (List.replicate 3585 1) = .romTooLarge :=
  if_neg (by rw [List.length_replicate]; decide)
theorem test_latest_press_wins : ((State.reset.pressKey 3).pressKey 7).keyLatch = some 7 := by decide
theorem test_odd_pc_is_fetched :
    (run 0x60AA { State.reset with pc := 0x203 }).getV 0 = 0xAA := by decide

/-! ### Witnesses: states and operands that meet the hypotheses of the statements -/

/-- A state with `pc` at the last address a fetch can start at. -/
def atEnd : State := { State.reset with pc := 0xFFE }

/-- A state whose fault record is set, with the timers running. -/
def latched : State := { State.reset with fault := ⟨some .stackOverflow, 0x2200, 0x200⟩, dt := 5, st := 0 }

/-- A state that waits for a key at 0x200, with the word 0xF30A there. -/
def waiting : State := { State.reset with await := true, mem := [(0x200, 0xF3), (0x201, 0x0A)] }

/-- DecodeOfEncodeIsTheInstruction, at the largest operands. -/
theorem witness_wellFormed : Instr.wf (.drwVxVyN 15 15 15) = true := by decide

/-- EncodeOfDecodeIsTheWord, at a shift with `y` in use; DecoderAgreesWithTheOpcodeTable at its row. -/
theorem witness_decodes : decode 0x8F16 = .ok (.shrVx 0xF 0x1) ∧
    (⟨"SHR_Vx", 0x8006, 0xF00F⟩ : OpcodeRow) ∈ opcodeTable ∧
    OpcodeRow.covers ⟨"SHR_Vx", 0x8006, 0xF00F⟩ 0x8F16 = true := by decide

/-- StepRunsTheDecodedInstruction, at the last `pc` a fetch can start at. -/
theorem witness_fetch_at_the_end :
    let s := atEnd.withFetchWord 16 0x2FFF
    s.fault.kind = none ∧ s.pc.toNat + 1 ≤ 0xFFF ∧
    decodeBytes [s.readByte s.pc.toNat, s.readByte (s.pc.toNat + 1)] = .ok (.callNnn 0xFFF, []) := by decide

/-- AWordStoredAtThePcRunsNext. -/
theorem witness_store_at_the_end : atEnd.fault.kind = none ∧ atEnd.pc.toNat + 1 ≤ 0xFFF ∧
    Memory.wf atEnd.mem = true ∧ Instr.wf (.drwVxVyN 1 2 15) = true := ⟨rfl, by decide, rfl, by decide⟩

/-- RaisingAFaultWritesOnlyTheRecord, where a word was fetched and where none was. -/
theorem witness_raising :
    (∃ t, step (State.reset.withFetchWord 16 0x5001) = .next t ∧ t.fault.kind = some .undefinedOpcode) ∧
    ∃ t, step { State.reset with pc := 0xFFF } = .next t ∧ t.fault.kind = some .addressOutOfRange :=
  ⟨⟨_, rfl, rfl⟩, _, rfl, rfl⟩

/-- EachFaultHasExactlyItsCause: each cause at its boundary, and the same word one before it. -/
theorem witness_causes :
    (run 0x2ABC (withStack 16 0)).fault.kind = some .stackOverflow ∧
    (run 0x2ABC (withStack 15 0)).fault.kind = none ∧
    (run 0x00EE (withStack 0 0)).fault.kind = some .stackUnderflow ∧
    (run 0x00EE (withStack 1 0)).fault.kind = none ∧
    (run 0xE19E (withRegs [0, 16])).fault.kind = some .keyIndexOutOfRange ∧
    (run 0xE1A1 (withRegs [0, 16])).fault.kind = some .keyIndexOutOfRange ∧
    (run 0xE1A1 (withRegs [0, 15])).fault.kind = none ∧
    (run 0xD012 { State.reset with i := 0xFFF }).fault.kind = some .addressOutOfRange ∧
    (run 0xD010 { State.reset with i := 0x1000 }).fault.kind = none ∧
    (run 0xF033 { State.reset with i := 0xFFE }).fault.kind = some .addressOutOfRange ∧
    (run 0xF033 { State.reset with i := 0xFFD }).fault.kind = none ∧
    (run 0xFF55 { State.reset with i := 0xFF1 }).fault.kind = some .addressOutOfRange ∧
    (run 0xFF55 { State.reset with i := 0xFF0 }).fault.kind = none ∧
    (run 0xFF65 { State.reset with i := 0xFF1 }).fault.kind = some .addressOutOfRange := by decide

/-- AFaultIsStickyUntilReset: the state, and each of the four actions. -/
theorem witness_sticky :
    latched.fault.kind ≠ none ∧ (∃ m, (Session.mk latched false).perform .execute = some m) ∧
    (∃ m, (Session.mk latched false).perform (.press 3) = some m ∧ Event.press 3 ≠ .reset) ∧
    (∃ m, (Session.mk latched false).perform .timerTick = some m) ∧
    ∃ m, (Session.mk latched false).perform .reset = some m :=
  ⟨by decide, ⟨_, rfl⟩, ⟨_, rfl, by decide⟩, ⟨_, rfl⟩, _, rfl⟩

/-- AnInstructionChangesOnlyWhatItsRuleNames, for an instruction that completes and for one that faults. -/
theorem witness_frames :
    State.reset.fault.kind = none ∧
    (∃ t, exec (.addVxVy 1 2) State.reset = .next t ∧ t.fault.kind = none) ∧
    ∃ t, exec .ret State.reset = .next t ∧ t.fault.kind ≠ none :=
  ⟨rfl, ⟨_, rfl, rfl⟩, State.reset.withFault .stackUnderflow 0x00EE, rfl, by decide⟩

/-- The same statement within the parts: a register, a cell, a byte and a pixel at the edge of what is written, and
one just outside; an Fx0A with and without an event. -/
theorem witness_frames_within :
    Memory.wf (indexed 0xFF0).mem = true ∧
    storesTo (indexed 0xFFD) 0xFFF (.ldBVx 3) ∧ ¬ storesTo (indexed 0xFFC) 0xFFF (.ldBVx 3) ∧
    ¬ storesTo (indexed 0xFFD) 0xFFC (.ldBVx 3) ∧
    storesTo (indexed 0xFF0) 0xFFF (.ldMemVx 15) ∧ ¬ storesTo (indexed 0xFF0) 0xFEF (.ldMemVx 15) ∧
    ¬ storesTo (indexed 0xFF0) 0xFFF (.ldMemVx 14) ∧
    writesCell (withStack 15 0) 15 (.callNnn 0x300) ∧ ¬ writesCell (withStack 15 0) 14 (.callNnn 0x300) ∧
    writesRegister State.reset 7 (.ldVxMem 7) ∧ ¬ writesRegister State.reset 8 (.ldVxMem 7) ∧
    ¬ writesRegister State.reset 3 (.ldVxK 3) ∧ writesRegister (State.reset.pressKey 9) 3 (.ldVxK 3) ∧
    ¬ writesRegister State.reset 4 (.addVxVy 3 4) ∧
    ¬ writesPixel (indexed 0x300) 0 0 (.drwVxVyN 0 1 1) := by
  unfold storesTo writesCell writesRegister writesPixel spriteHas
  decide

/-- ThePcAdvancesByTwoUnlessTheOperationSetsIt and VfIsWrittenAsAFlagBySixOperationsOnly: one instruction of
each group completes. -/
theorem witness_pc_and_vf :
    (∃ t, exec .ret (withStack 1 0x202) = .next t ∧ t.fault.kind = none) ∧
    (∃ t, exec (.callNnn 0x300) State.reset = .next t ∧ t.fault.kind = none) ∧
    (∃ t, exec (.jpV0Nnn 0xFFF) (withRegs [0xFF]) = .next t ∧ t.fault.kind = none) ∧
    (∃ t, exec (.seVxNn 0 0) State.reset = .next t ∧ t.fault.kind = none) ∧
    (∃ t, exec (.ldVxK 3) State.reset = .next t ∧ t.fault.kind = none) ∧
    (∃ t, exec (.shrVx 15 3) State.reset = .next t ∧ t.fault.kind = none) ∧
    ∃ t, exec (.addVxNn 14 1) State.reset = .next t ∧ t.fault.kind = none :=
  ⟨⟨_, rfl, rfl⟩, ⟨_, rfl, rfl⟩, ⟨_, rfl, rfl⟩, ⟨_, rfl, rfl⟩, ⟨_, rfl, rfl⟩, ⟨_, rfl, rfl⟩, _, rfl, rfl⟩

/-- TheSoundTimerIsNeverObserved. -/
theorem witness_step : ∃ t, step (State.reset.withFetchWord 16 0x6A2F) = .next t := ⟨_, rfl⟩

/-- DeadStackCellsAreNeverObserved: cells that differ from index 1 on, with SP = 1, at a return. -/
theorem witness_dead_cells :
    let s := { withStack 1 0x202 with mem := [(0x201, 0xEE)] }
    let cells : Vector Word 16 := Vector.ofFn fun k => if k.val = 0 then 0x202 else 0x777
    (∀ k : Fin 16, k.val < s.sp.val → cells[k.val] = s.cell k) ∧ cells ≠ s.stack ∧ ∃ t, step s = .next t :=
  ⟨by decide, by decide, _, rfl⟩

/-- TicksCommuteWithInstructionsThatNameNoTimer. -/
theorem witness_ticks : (∃ t, exec (.addVxNn 1 1) State.reset = .next t) ∧
    ∀ x, Instr.addVxNn 1 1 ≠ .ldVxDt x ∧ Instr.addVxNn 1 1 ≠ .ldDtVx x ∧ Instr.addVxNn 1 1 ≠ .ldStVx x :=
  ⟨⟨_, rfl⟩, by decide⟩

/-- The invariant at the state after reset, and a step from it (EveryStepKeepsTheInvariant). -/
theorem witness_invariant : State.reset.Inv ∧ ∃ t, step State.reset = .next t :=
  ⟨⟨rfl, ⟨by decide, by decide⟩, fun _ => rfl, fun h => absurd rfl h⟩, _, rfl⟩

/-- EveryActionKeepsTheSessionInvariant: the invariant at a session that waits, and moves from it. -/
theorem witness_session_invariant :
    (Session.mk waiting false).Inv ∧ (∃ m, (Session.mk waiting false).perform .execute = some m) ∧
    ∃ m, (Session.mk waiting false).perform (.press 7) = some m :=
  ⟨⟨⟨by decide, ⟨by decide, by decide⟩, fun _ => rfl, fun h => absurd rfl h⟩,
      fun _ => ⟨rfl, by decide, 3, by decide⟩, fun h => Bool.noConfusion h⟩, ⟨_, rfl⟩, _, rfl⟩

/-- MemoriesThatReadAlikeAreEqual: a memory that two orders of writing reach. -/
theorem witness_memories :
    Memory.wf ((State.reset.mem.write 0x300 1).write 0x200 2) = true ∧
    (State.reset.mem.write 0x300 1).write 0x200 2 = (State.reset.mem.write 0x200 2).write 0x300 1 := by decide

/-- RomLoadCopiesTheImageOrRefusesIt: lengths 3584 and 3585, before and after the first `execute`. -/
theorem witness_rom : (List.replicate 3584 (1 : Byte)).length ≤ 3584 ∧
    3584 < (List.replicate 3585 (1 : Byte)).length ∧ Memory.wf State.reset.mem = true ∧
    Session.start.loadable = true ∧
    (∃ m, Session.start.perform .execute = some m ∧ m.loadable = false) ∧
    ∃ m, Session.start.perform .reset = some m :=
  ⟨by rw [List.length_replicate], by rw [List.length_replicate]; decide, rfl, rfl, ⟨_, rfl, rfl⟩, _, rfl⟩

/-- OnlyTheDriverCountsTheTimersDown: instructions that name one timer. -/
theorem witness_timers : (∃ t, exec (.ldDtVx 2) State.reset = .next t) ∧ (∀ x, Instr.ldDtVx 2 ≠ .ldStVx x) ∧
    (∃ t, exec (.ldStVx 2) State.reset = .next t) ∧ ∀ x, Instr.ldStVx 2 ≠ .ldDtVx x :=
  ⟨⟨_, rfl⟩, by decide, ⟨_, rfl⟩, by decide⟩

/-- TheKeypadPostsPressesAndNotReleases: a key up, and a key down. -/
theorem witness_keys : State.reset.keyPressed 15 = false ∧ (State.reset.pressKey 15).keyPressed 15 = true := by decide

/-- AddWritesTheWrappedSumThenTheCarry, SubtractsWriteTheWrappedDifferenceThenNotBorrow,
ShiftsMoveVxByOneBitAndIgnoreY: a destination other than VF, and a register that is neither. -/
theorem witness_destinations : (14 : Reg) ≠ VF ∧ (13 : Reg) ≠ 14 ∧ (13 : Reg) ≠ VF := by decide

/-- RegisterSkipsAddFourOrTwo: equal and unequal. -/
theorem witness_skips : (withRegs [7, 7]).getV 0 = 7 ∧ (withRegs [7, 7]).getV 0 = (withRegs [7, 7]).getV 1 ∧
    (withRegs [7, 8]).getV 0 ≠ 8 ∧ (withRegs [7, 8]).getV 0 ≠ (withRegs [7, 8]).getV 1 := by decide

/-- CallPushesTheReturnAddressOrOverflows, ReturnPopsThePcOrUnderflows, ReturnComesBackBehindTheCall. -/
theorem witness_stack_depths : (withStack 15 0).sp.val < 16 ∧ (withStack 16 0).sp.val = 16 ∧
    0 < (withStack 1 0).sp.val ∧ (withStack 0 0).sp.val = 0 := by decide

/-- AJumpToItselfChangesNothing: 0x1FFE at 0xFFE. -/
theorem witness_ended : (atEnd.withFetchWord 16 0x1FFE).ended = true := by decide

/-- LoadFontAddressPointsAtTheGlyph: the font after reset. -/
theorem witness_font : ∀ k < 80, State.reset.readByte (Config.fontBase + k) = font.getD k 0 := by
  intro k hk
  have := Config.fontBase_add_80_le
  show resetByte (Config.fontBase + k) = font.getD k 0
  unfold resetByte
  rw [if_neg (show ¬ 0x200 ≤ _ by omega), if_pos (by omega), Nat.add_sub_cancel_left]

/-- BcdStoresThreeDigitsOrFaults and the loads and stores of a register range: the last legal address and the
first illegal one. -/
theorem witness_ranges :
    (∀ w, Memory.wf (indexed w).mem = true) ∧ (indexed 0xFFD).i.toNat + 2 ≤ 0xFFF ∧ (indexed 0xFFE).i.toNat + 2 > 0xFFF ∧
    (indexed 0xFF0).i.toNat + (15 : Reg).val ≤ 0xFFF ∧ (indexed 0xFF1).i.toNat + (15 : Reg).val > 0xFFF :=
  ⟨fun _ => rfl, by decide, by decide, by decide, by decide⟩

/-- AStoreIsSeenByTheNextFetch: V0 and V1 over the next instruction. -/
theorem witness_self_modification :
    let s := { withRegs [0x12, 0x08] with i := 0x202 }
    Memory.wf s.mem = true ∧ s.i.toNat + (1 : Reg).val ≤ 0xFFF ∧ (1 : Reg).val = (0 : Reg).val + 1 ∧
    (1 : Reg).val ≤ (1 : Reg).val ∧ (s.pc + 2).toNat = s.i.toNat + (0 : Reg).val := by decide

/-- DrawTogglesTheSpriteAndReportsTheCollision and DrawingTwiceRestoresTheScreen: a sprite that ends at the last
byte, one that does not fit, none at all out of range; a pixel of the sprite and one outside it. -/
theorem witness_draw :
    (indexed 0xFF1).i.toNat + 15 - 1 ≤ 0xFFF ∧ (indexed 0xFFF).i.toNat + 2 - 1 > 0xFFF ∧ (0 : Reg) ≠ VF ∧
    spriteHas 63 31 1 (fun _ => 0xC0) 0 31 ∧ ¬ spriteHas 63 31 1 (fun _ => 0xC0) 1 31 :=
  ⟨by decide, by decide, by decide, ⟨0, by decide, 1, by decide, by decide, by decide, by decide⟩,
    by unfold spriteHas; decide⟩

/-- RandomIsADrawMaskedByNn: a bit of the mask that is 0. -/
theorem witness_mask : (0x0F : Byte).getLsbD 7 = false := by decide

/-- KeySkipsTestTheLevelOrFault: key 15, and 16, which is none. -/
theorem witness_key_numbers : ((withRegs [15]).getV 0).toNat = (15 : Key).val ∧ ((withRegs [16]).getV 0).toNat > 15 := by
  decide

/-- WaitForKeyPollsOnce and PollingWhileWaitingChangesNothing. -/
theorem witness_wait : State.reset.keyLatch = none ∧ (State.reset.pressKey 0).keyLatch = some 0 ∧
    waiting.awaitsAtWait ∧ waiting.await = true ∧ waiting.keyLatch = none :=
  ⟨rfl, by decide, fun _ => ⟨rfl, by decide, 3, by decide⟩, rfl, rfl⟩

end Sys2Proof.Tests
end

/-!
What an instruction leaves unchanged (spec/00_scope.md R4). `WithinWrites i s` holds of the states that differ from
`s` only within what instruction `i` writes. Each operation of the state keeps it where `i` names what the operation
writes, and so does the meaning of an instruction, a chain of such operations.
-/

namespace Sys2Proof.Machine

/-! ### Frames compose -/

theorem Part.same_trans {s t u : State} {p : Part} (h : Part.same s t p) (h' : Part.same t u p) :
    Part.same s u p := by
  cases p with
  | v | stack | mem | keys => exact fun k => (h' k).trans (h k)
  | fb => exact fun qx qy => (h' qx qy).trans (h qx qy)
  | i | pc | sp | dt | st | await | fault | keyLatch | draws => exact Eq.trans h' h

theorem OnlyChanges.trans {l : List Part} {s t u : State} (h : OnlyChanges l s t) (h' : OnlyChanges l t u) :
    OnlyChanges l s u := fun p hp => Part.same_trans (h p hp) (h' p hp)

/-! ### The parts each operation writes -/

section
variable (s : State)

theorem State.setPc_onlyChanges (w : Word) : OnlyChanges [.pc] s (s.setPc w) := fun p hp => by
  cases p <;> simp_all [Part.same]

theorem State.setV_onlyChanges (x : Reg) (b : Byte) : OnlyChanges [.v] s (s.setV x b) := fun p hp => by
  cases p <;> simp_all [Part.same]

theorem State.setRegs_onlyChanges (vs : Vector Byte 16) : OnlyChanges [.v] s (s.setRegs vs) := fun p hp => by
  cases p <;> simp_all [Part.same]

theorem State.setI_onlyChanges (w : Word) : OnlyChanges [.i] s (s.setI w) := fun p hp => by
  cases p <;> simp_all [Part.same]

theorem State.push_onlyChanges (w : Word) (h : s.sp.val < 16) : OnlyChanges [.stack, .sp] s (s.push w h) :=
  fun p hp => by cases p <;> simp_all [Part.same]

theorem State.popToPc_onlyChanges (h : 0 < s.sp.val) : OnlyChanges [.sp, .pc] s (s.popToPc h) := fun p hp => by
  cases p <;> simp_all [Part.same]

theorem State.writeBytes_onlyChanges (a : Nat) (bs : List Byte) : OnlyChanges [.mem] s (s.writeBytes a bs) :=
  fun p hp => by cases p <;> simp_all [Part.same]

theorem State.setFb_onlyChanges (f : Framebuffer) : OnlyChanges [.fb] s (s.setFb f) := fun p hp => by
  cases p <;> simp_all [Part.same]

theorem State.afterKeyEvent_onlyChanges : OnlyChanges [.keyLatch] s s.afterKeyEvent := fun p hp => by
  cases p <;> simp_all [Part.same]

theorem State.setAwait_onlyChanges (b : Bool) : OnlyChanges [.await] s (s.setAwait b) := fun p hp => by
  cases p <;> simp_all [Part.same]

theorem State.setDt_onlyChanges (b : Byte) : OnlyChanges [.dt] s (s.setDt b) := fun p hp => by
  cases p <;> simp_all [Part.same]

theorem State.setSt_onlyChanges (b : Byte) : OnlyChanges [.st] s (s.setSt b) := fun p hp => by
  cases p <;> simp_all [Part.same]

theorem State.afterRandomByte_onlyChanges : OnlyChanges [.draws] s s.afterRandomByte := fun p hp => by
  cases p <;> simp_all [Part.same]

end

/-! ### The parts each instruction writes -/

/-- Every instruction writes `pc` (R97). -/
theorem pc_mem_writes (i : Instr) : .pc ∈ i.writes := by
  cases i <;> simp [Instr.writes]

/-- The record is no effect of an instruction that completes (R206). -/
theorem fault_notMem_writes (i : Instr) : .fault ∉ i.writes := by
  cases i <;> simp [Instr.writes]

/-! ### States within what an instruction writes -/

/-- `t` differs from `s` only within what `i`, completing at `s`, writes: the parts, and in a part the registers,
cells, bytes and pixels (R4). -/
structure WithinWrites (i : Instr) (s t : State) : Prop where
  parts : OnlyChanges i.writes s t
  registers : ∀ r, ¬ writesRegister s r i → t.getV r = s.getV r
  cells : ∀ k, ¬ writesCell s k i → t.cell k = s.cell k
  bytes : Memory.wf s.mem = true → ∀ a, ¬ storesTo s a i → t.readByte a = s.readByte a
  pixels : ∀ qx qy, ¬ writesPixel s qx qy i → t.pixel qx qy = s.pixel qx qy

/-- The parts an instruction may write in some places only: those whose places `WithinWrites` frames. -/
abbrev dividedParts : List Part := [.v, .stack, .mem, .fb]

namespace WithinWrites

variable {i : Instr} {s t : State}

theorem refl : WithinWrites i s s where
  parts p _ := by cases p <;> simp [Part.same]
  registers _ _ := rfl
  cells _ _ := rfl
  bytes _ _ _ := rfl
  pixels _ _ _ := rfl

theorem fault_eq (h : WithinWrites i s t) : t.fault = s.fault := h.parts .fault (fault_notMem_writes i)

/-- A change of whole parts only needs the instruction to name those parts. -/
theorem wholeParts {l : List Part} {u : State} (h : WithinWrites i s t) (hu : OnlyChanges l t u)
    (hl : l ⊆ i.writes) (hd : ∀ p ∈ dividedParts, p ∉ l) : WithinWrites i s u where
  parts := h.parts.trans (hu.mono hl)
  registers r hr := (hu .v (hd _ (by decide)) r).trans (h.registers r hr)
  cells k hk := (hu .stack (hd _ (by decide)) k).trans (h.cells k hk)
  bytes hm a ha := (hu .mem (hd _ (by decide)) a).trans (h.bytes hm a ha)
  pixels qx qy hq := (hu .fb (hd _ (by decide)) qx qy).trans (h.pixels qx qy hq)

theorem setPc (h : WithinWrites i s t) (w : Word) : WithinWrites i s (t.setPc w) :=
  h.wholeParts (t.setPc_onlyChanges w) (by simp [pc_mem_writes]) (by decide)

theorem advance (h : WithinWrites i s t) : WithinWrites i s t.advance := h.setPc _

theorem skipIf (h : WithinWrites i s t) (c : Bool) : WithinWrites i s (t.skipIf c) := by
  rw [State.skipIf_eq]
  exact h.setPc _

theorem popToPc (h : WithinWrites i s t) (hsp : 0 < t.sp.val)
    (hi : .sp ∈ i.writes := by simp [Instr.writes]) : WithinWrites i s (t.popToPc hsp) :=
  h.wholeParts (t.popToPc_onlyChanges hsp) (by simp [hi, pc_mem_writes]) (by decide)

theorem setI (h : WithinWrites i s t) (w : Word) (hi : .i ∈ i.writes := by simp [Instr.writes]) :
    WithinWrites i s (t.setI w) :=
  h.wholeParts (t.setI_onlyChanges w) (by simp [hi]) (by decide)

theorem setDt (h : WithinWrites i s t) (b : Byte) (hi : .dt ∈ i.writes := by simp [Instr.writes]) :
    WithinWrites i s (t.setDt b) :=
  h.wholeParts (t.setDt_onlyChanges b) (by simp [hi]) (by decide)

theorem setSt (h : WithinWrites i s t) (b : Byte) (hi : .st ∈ i.writes := by simp [Instr.writes]) :
    WithinWrites i s (t.setSt b) :=
  h.wholeParts (t.setSt_onlyChanges b) (by simp [hi]) (by decide)

theorem setAwait (h : WithinWrites i s t) (b : Bool)
    (hi : .await ∈ i.writes := by simp [Instr.writes]) : WithinWrites i s (t.setAwait b) :=
  h.wholeParts (t.setAwait_onlyChanges b) (by simp [hi]) (by decide)

theorem afterKeyEvent (h : WithinWrites i s t) (hi : .keyLatch ∈ i.writes := by simp [Instr.writes]) :
    WithinWrites i s t.afterKeyEvent :=
  h.wholeParts t.afterKeyEvent_onlyChanges (by simp [hi]) (by decide)

theorem afterRandomByte (h : WithinWrites i s t) (hi : .draws ∈ i.writes := by simp [Instr.writes]) :
    WithinWrites i s t.afterRandomByte :=
  h.wholeParts t.afterRandomByte_onlyChanges (by simp [hi]) (by decide)

theorem setV (h : WithinWrites i s t) {x : Reg} (b : Byte) (hx : writesRegister s x i)
    (hi : .v ∈ i.writes := by simp [Instr.writes]) : WithinWrites i s (t.setV x b) :=
  { h with
    parts := h.parts.trans ((t.setV_onlyChanges x b).mono (by simp [hi]))
    registers := fun r hr => by
      have hrx : r ≠ x := fun e => hr (e ▸ hx)
      rw [State.getV_setV, if_neg hrx, h.registers r hr] }

theorem setResultAndFlag (h : WithinWrites i s t) {x : Reg} (b c : Byte)
    (hx : writesRegister s x i) (hf : writesRegister s VF i) (hi : .v ∈ i.writes := by simp [Instr.writes]) :
    WithinWrites i s (t.setResultAndFlag x b c) :=
  (h.setV b hx hi).setV c hf hi

theorem setRegs (h : WithinWrites i s t) {vs : Vector Byte 16}
    (hvs : ∀ r : Reg, ¬ writesRegister s r i → vs[r.val] = t.getV r)
    (hi : .v ∈ i.writes := by simp [Instr.writes]) : WithinWrites i s (t.setRegs vs) :=
  { h with
    parts := h.parts.trans ((t.setRegs_onlyChanges vs).mono (by simp [hi]))
    registers := fun r hr => (hvs r hr).trans (h.registers r hr) }

theorem push (h : WithinWrites i s t) (w : Word) (hsp : t.sp.val < 16)
    (hk : ∀ k : Fin 16, k.val = t.sp.val → writesCell s k i)
    (hi : [.stack, .sp] ⊆ i.writes := by simp [Instr.writes]) : WithinWrites i s (t.push w hsp) :=
  { h with
    parts := h.parts.trans ((t.push_onlyChanges w hsp).mono hi)
    cells := fun k hn => by rw [State.cell_push, if_neg (mt (hk k) hn), h.cells k hn] }

theorem setFb (h : WithinWrites i s t) {f : Framebuffer}
    (hf : ∀ qx qy, ¬ writesPixel s qx qy i → f.pixel qx qy = t.pixel qx qy)
    (hi : .fb ∈ i.writes := by simp [Instr.writes]) : WithinWrites i s (t.setFb f) :=
  { h with
    parts := h.parts.trans ((t.setFb_onlyChanges f).mono (by simp [hi]))
    pixels := fun qx qy hq => (hf qx qy hq).trans (h.pixels qx qy hq) }

theorem fbClear (h : WithinWrites i s t) (hall : ∀ qx qy, writesPixel s qx qy i)
    (hi : .fb ∈ i.writes := by simp [Instr.writes]) : WithinWrites i s t.fbClear :=
  h.setFb (fun qx qy hq => absurd (hall qx qy) hq) hi

/-- A store, made by the model before anything else: its range lies in what the instruction stores to. -/
theorem writeBytes {a : Nat} {bs : List Byte}
    (hst : ∀ x, a ≤ x → x < a + bs.length → storesTo s x i)
    (hi : .mem ∈ i.writes := by simp [Instr.writes]) : WithinWrites i s (s.writeBytes a bs) :=
  { (refl : WithinWrites i s s) with
    parts := (s.writeBytes_onlyChanges a bs).mono (by simp [hi])
    bytes := fun hm x hx => by
      refine State.readByte_writeBytes_outside hm a x bs ?_
      by_contra hin
      exact hx (hst x (by omega) (by omega)) }

end WithinWrites

/-! ### What an instruction answers -/

/-- The result is a next state: a fault raised at `s` and no more, or a state within what `i` writes. -/
def RaisesOrWithin (i : Instr) (s : State) (r : Result) : Prop :=
  ∃ t, r = .next t ∧ ((∃ k w, t = s.withFault k w) ∨ WithinWrites i s t)

namespace RaisesOrWithin

variable {i : Instr} {s : State}

theorem completes {t : State} (h : WithinWrites i s t) : RaisesOrWithin i s (.next t) := ⟨t, rfl, .inr h⟩

theorem raises (k : FaultKind) (w : Word) : RaisesOrWithin i s (raise k w s) := ⟨_, rfl, .inl ⟨k, w, rfl⟩⟩

/-- A check before any write (R52, R202, R203). -/
theorem guarded_dite {c : Prop} [Decidable c] {t : c → State} {k : FaultKind} {w : Word}
    (h : ∀ hc, WithinWrites i s (t hc)) :
    RaisesOrWithin i s (if hc : c then .next (t hc) else raise k w s) := by
  split
  next hc => exact completes (h hc)
  next => exact raises k w

/-- The same check where the answer needs no proof that it passed. -/
theorem guarded_ite {c : Prop} [Decidable c] {t : State} {k : FaultKind} {w : Word} (h : WithinWrites i s t) :
    RaisesOrWithin i s (if c then .next t else raise k w s) :=
  guarded_dite fun _ => h

end RaisesOrWithin

theorem execCall_raisesOrWithin (nnn : Addr) (s : State) :
    RaisesOrWithin (.callNnn nnn) s (execCall nnn s) := by
  have hpushed (hsp : s.sp.val < 16) : WithinWrites (.callNnn nnn) s (s.push (s.pc + 2) hsp) :=
    .push .refl _ hsp fun _ hk => hk
  exact .guarded_dite fun hsp => (hpushed hsp).setPc _

theorem execSkp_raisesOrWithin (x : Reg) (s : State) : RaisesOrWithin (.skpVx x) s (execSkp x s) := by
  cases h : keyNumber (s.getV x) with
  | none => rw [execSkp_of_none x h]; exact .raises _ _
  | some k => rw [execSkp_of_key x h]; exact .completes (.skipIf .refl _)

theorem execSknp_raisesOrWithin (x : Reg) (s : State) : RaisesOrWithin (.sknpVx x) s (execSknp x s) := by
  cases h : keyNumber (s.getV x) with
  | none => rw [execSknp_of_none x h]; exact .raises _ _
  | some k => rw [execSknp_of_key x h]; exact .completes (.skipIf .refl _)

/-- Without an event no register is written: AWAIT is set and the poll ends there (R181). -/
theorem execLdVxK_raisesOrWithin (x : Reg) (s : State) : RaisesOrWithin (.ldVxK x) s (execLdVxK x s) := by
  have hpolled : WithinWrites (.ldVxK x) s s.afterKeyEvent := .afterKeyEvent .refl
  cases h : s.keyLatch with
  | none =>
    rw [execLdVxK_of_none x h]
    exact .completes (hpolled.setAwait _)
  | some k =>
    rw [execLdVxK_of_some x h]
    have hx : writesRegister s x (.ldVxK x) := ⟨by simp [h], rfl⟩
    exact .completes ((hpolled.setV _ hx).setAwait _).advance

theorem execDrw_raisesOrWithin (x y : Reg) (n : Nat) (s : State) :
    RaisesOrWithin (.drwVxVyN x y n) s (execDrw x y n s) := by
  have hdrawn : WithinWrites (.drwVxVyN x y n) s (s.setFb (drawing x y n s).1) :=
    .setFb .refl fun qx qy => fbXorSprite_outside _ _ _ _ _ qx qy
  exact .guarded_ite (hdrawn.setV _ rfl).advance

theorem execLdB_raisesOrWithin (x : Reg) (s : State) : RaisesOrWithin (.ldBVx x) s (execLdB x s) := by
  have hstored : WithinWrites (.ldBVx x) s (s.writeBytes (effAddr s 0) (bcdDigits (s.getV x))) :=
    .writeBytes fun a hlo hhi => ⟨hlo, by rw [bcdDigits_length] at hhi; omega⟩
  exact .guarded_ite hstored.advance

theorem execLdMemVx_raisesOrWithin (x : Reg) (s : State) :
    RaisesOrWithin (.ldMemVx x) s (execLdMemVx x s) := by
  have hstored : WithinWrites (.ldMemVx x) s (s.writeBytes (effAddr s 0) (registersUpTo s x)) :=
    .writeBytes fun a hlo hhi =>
      ⟨hlo, by rw [registersUpTo_length] at hhi; rw [rangeCount]; omega⟩
  exact .guarded_ite hstored.advance

theorem execLdVxMem_raisesOrWithin (x : Reg) (s : State) :
    RaisesOrWithin (.ldVxMem x) s (execLdVxMem x s) := by
  have hloaded : WithinWrites (.ldVxMem x) s (s.setRegs (registersLoaded s x)) :=
    .setRegs .refl fun r hr => (registersLoaded_getV s x r).trans (if_neg hr)
  exact .guarded_ite hloaded.advance

/-- Every instruction answers a next state, which is a fault raised or a state within what it writes (R4). -/
theorem exec_raisesOrWithin (i : Instr) (s : State) : RaisesOrWithin i s (exec i s) := by
  cases i with
  | cls => exact .completes (.advance (.fbClear .refl fun _ _ => trivial))
  | ret => exact .guarded_dite fun hsp => .popToPc .refl hsp
  | callNnn nnn => exact execCall_raisesOrWithin nnn s
  | jpNnn nnn | jpV0Nnn nnn => exact .completes (.setPc .refl _)
  | seVxNn x nn | sneVxNn x nn | seVxVy x y | sneVxVy x y => exact .completes (.skipIf .refl _)
  | skpVx x => exact execSkp_raisesOrWithin x s
  | sknpVx x => exact execSknp_raisesOrWithin x s
  | ldVxNn x nn | addVxNn x nn | ldVxVy x y | orVxVy x y | andVxVy x y | xorVxVy x y | ldVxDt x =>
    exact .completes (.advance (.setV .refl _ rfl))
  | addVxVy x y | subVxVy x y | shrVx x y | subnVxVy x y | shlVx x y =>
    exact .completes (.advance (.setResultAndFlag .refl _ _ (.inl rfl) (.inr rfl)))
  | rndVxNn x nn => exact .completes (.advance (.setV (.afterRandomByte .refl) _ rfl))
  | ldINnn nnn | addIVx x | ldFVx x => exact .completes (.advance (.setI .refl _))
  | drwVxVyN x y n => exact execDrw_raisesOrWithin x y n s
  | ldVxK x => exact execLdVxK_raisesOrWithin x s
  | ldDtVx x => exact .completes (.advance (.setDt .refl _))
  | ldStVx x => exact .completes (.advance (.setSt .refl _))
  | ldBVx x => exact execLdB_raisesOrWithin x s
  | ldMemVx x => exact execLdMemVx_raisesOrWithin x s
  | ldVxMem x => exact execLdVxMem_raisesOrWithin x s

/-- Settles O11: an answer is a raised fault, whose record is set and all it changes, or it is within the writes of
its instruction, where the record stays clear. -/
theorem anInstructionChangesOnlyWhatItsRuleNames :
    Obligations.AnInstructionChangesOnlyWhatItsRuleNames := by
  intro i s t hclear hexec
  obtain ⟨u, hu, ⟨k, w, rfl⟩ | hin⟩ := exec_raisesOrWithin i s
  · obtain rfl : t = s.withFault k w := Host.Outcome.next.inj (hexec.symm.trans hu)
    exact ⟨fun hnone => by simp at hnone, fun _ => withFault_onlyChanges s k w⟩
  · obtain rfl : t = u := Host.Outcome.next.inj (hexec.symm.trans hu)
    exact ⟨fun _ => ⟨hin.parts, hin.registers, hin.cells, hin.bytes, hin.pixels⟩,
      fun hset => absurd (hin.fault_eq ▸ hclear) hset⟩

end Sys2Proof.Machine

/-!
The flag register VF and reset (spec/10_state.md R22, R34). An instruction that writes VF as a flag is a result and then a flag, or a
draw; of any other, VF unchanged is a case of the frame of the registers above.
-/

namespace Sys2Proof.Machine

theorem flagByte_decide (p : Prop) [Decidable p] : flagByte (decide p) = if p then 1 else 0 := by
  by_cases hp : p <;> simp [hp]

/-- Where an instruction completes, a register it does not name is as it was (R4). -/
theorem getV_eq_of_not_writesRegister {i : Instr} {s t : State} (hclear : s.fault.kind = none)
    (hexec : exec i s = .next t) (hdone : t.fault.kind = none) {r : Reg} (hr : ¬ writesRegister s r i) :
    t.getV r = s.getV r := by
  obtain ⟨-, hregs, -⟩ := (anInstructionChangesOnlyWhatItsRuleNames i s t hclear hexec).1 hdone
  exact hregs r hr

/-- An instruction that ends with a result and a flag leaves the flag in VF, also when its result goes there (R5). -/
theorem getV_VF_of_resultAndFlag {s t : State} {x : Reg} {result flag : Byte}
    (h : (.next (s.setResultAndFlag x result flag).advance : Result) = .next t) : t.getV VF = flag := by
  obtain rfl := Host.Outcome.next.inj h
  rw [State.advance_getV, State.getV_setResultAndFlag, if_pos rfl]

/-- A draw reports a collision exactly when some pixel that was set is then clear (R22, R177). -/
theorem drawing_collides_iff (x y : Reg) {n : Nat} (hn : n ≤ 15) (s : State) :
    (drawing x y n s).2 = true ↔
      ∃ qx qy, s.pixel qx qy = true ∧ (drawing x y n s).1.pixel qx qy = false := by
  obtain ⟨hpixel, hcollides⟩ := fbXorSprite_spec s.fb (s.getV x).toNat (s.getV y).toNat n (spriteRow s) hn
  refine hcollides.trans (exists₂_congr fun qx qy => and_congr_right fun hset => ?_)
  rw [← Bool.not_eq_true, drawing, hpixel]
  simp [hset]

/-- A draw that completes has drawn and left the collision in VF (R177). -/
theorem eq_of_execDrw_completes {x y : Reg} {n : Nat} {s t : State} (hexec : execDrw x y n s = .next t)
    (hdone : t.fault.kind = none) :
    t = ((s.setFb (drawing x y n s).1).setV VF (flagByte (drawing x y n s).2)).advance := by
  unfold execDrw at hexec
  split at hexec
  next => exact (Host.Outcome.next.inj hexec).symm
  next =>
    obtain rfl := raise_eq_next.mp hexec
    simp at hdone

/-- The table's row of Dxyn: VF says whether a set pixel was cleared (R22). -/
theorem execDrw_getV_VF {x y : Reg} {n : Nat} {s t : State} (hexec : execDrw x y n s = .next t)
    (hdone : t.fault.kind = none) (hn : n ≤ 15) :
    ((∃ qx qy, s.pixel qx qy = true ∧ t.pixel qx qy = false) → t.getV VF = 1) ∧
      ((¬ ∃ qx qy, s.pixel qx qy = true ∧ t.pixel qx qy = false) → t.getV VF = 0) := by
  obtain rfl := eq_of_execDrw_completes hexec hdone
  simp only [State.advance_pixel, State.setV_pixel, State.setFb_pixel, State.advance_getV,
    State.getV_setV_self, ← drawing_collides_iff x y hn s]
  cases (drawing x y n s).2 <;> simp

/-- Settles O13: the five arithmetic rows of the table are a result and then a flag, the sixth is the draw; every other
instruction frames VF. -/
theorem vfIsWrittenAsAFlagBySixOperationsOnly : Obligations.VfIsWrittenAsAFlagBySixOperationsOnly := by
  intro i s t hclear hexec hdone
  have hkept := @getV_eq_of_not_writesRegister i s t hclear hexec hdone VF
  cases i with
  | addVxVy x y | subVxVy x y | subnVxVy x y =>
    exact (getV_VF_of_resultAndFlag hexec).trans (flagByte_decide _)
  | shrVx x y | shlVx x y => exact getV_VF_of_resultAndFlag hexec
  | drwVxVyN x y n => exact execDrw_getV_VF hexec hdone
  | ldVxNn x _ | addVxNn x _ | ldVxVy x _ | orVxVy x _ | andVxVy x _ | xorVxVy x _ | rndVxNn x _ | ldVxDt x =>
    exact fun hx => hkept (Ne.symm hx)
  | ldVxK x => exact fun hx => hkept fun ⟨_, hVF⟩ => hx hVF.symm
  | ldVxMem x => exact fun hx => hkept fun hle => hx (Fin.last_le_iff.mp hle)
  | cls | ret | jpNnn _ | callNnn _ | jpV0Nnn _ | seVxNn _ _ | sneVxNn _ _ | seVxVy _ _ | sneVxVy _ _ | skpVx _
  | sknpVx _ | ldINnn _ | addIVx _ | ldFVx _ | ldBVx _ | ldMemVx _ | ldDtVx _ | ldStVx _ => exact hkept id

/-! ### Reset (R34) -/

/-- Settles O21: field by field, memory by what an unlisted address reads as. -/
theorem resetLeavesTheValuesOfTheSpec : Obligations.ResetLeavesTheValuesOfTheSpec := fun s =>
  ⟨s.hostReset_getV, rfl, fun _ ha => resetByte_outside ha, fun _ hk => resetByte_font hk,
    rfl, rfl, s.hostReset_cell, rfl, rfl, rfl, rfl, rfl, rfl, s.hostReset_pixel, rfl, s.hostReset_keyPressed⟩

end Sys2Proof.Machine

/-!
The words that stand for no instruction (spec/30_encoding.md R91). Under each tag with a secondary field the values of
that field left undefined are a lemma of their own; the tag decides between them.
-/

namespace Sys2Proof

/-! ### The undefined values of each secondary field (R86 to R90) -/

theorem decodeTag0_undefined_iff (w : Word) :
    decodeTag0 w = .error (.undefinedOpcode w) ↔ w.toNat % 4096 ≠ 0x0E0 ∧ w.toNat % 4096 ≠ 0x0EE := by
  rw [← toNat_nnnField]
  unfold decodeTag0
  split_ifs <;> simp_all [BitVec.toNat_eq_nat]

/-- Tags 0x5 and 0x9: one value of `n` is defined (R90). -/
theorem nField_eq_zero_iff (w : Word) : nField w = 0#4 ↔ w.toNat % 16 = 0 := by
  rw [← BitVec.toNat_inj, toNat_nField]
  rfl

theorem decodeTag8_undefined_iff (w : Word) :
    decodeTag8 w = .error (.undefinedOpcode w) ↔ w.toNat % 16 ∈ [0x8, 0x9, 0xA, 0xB, 0xC, 0xD, 0xF] := by
  rw [← toNat_nField]
  unfold decodeTag8
  split
  case h_10 =>
    simp only [true_iff]
    generalize nField w = n at *
    revert n
    decide
  all_goals simp [*]

theorem decodeTagE_undefined_iff (w : Word) :
    decodeTagE w = .error (.undefinedOpcode w) ↔ w.toNat % 256 ∉ [0x9E, 0xA1] := by
  rw [← toNat_nnField]
  unfold decodeTagE
  split <;> simp_all [BitVec.toNat_eq_nat]

theorem decodeTagF_undefined_iff (w : Word) :
    decodeTagF w = .error (.undefinedOpcode w) ↔
      w.toNat % 256 ∉ [0x07, 0x0A, 0x15, 0x18, 0x1E, 0x29, 0x33, 0x55, 0x65] := by
  rw [← toNat_nnField]
  unfold decodeTagF
  split <;> simp_all [BitVec.toNat_eq_nat]

end Sys2Proof

namespace Sys2Proof.Machine

/-- A fetched word that is no instruction raises UndefinedOpcode with it (R84, R91, R201). -/
theorem step_of_undefined {s : State} {e : DecodeError} (hclear : s.fault.kind = none)
    (hfetch : s.pc.toNat + 1 ≤ 0xFFF) (hdec : decode s.fetchWord = .error e) :
    step s = .next (s.withFault .undefinedOpcode s.fetchWord) := by
  have hfaulted : ¬ s.faulted = true := fun h => State.faulted_iff.mp h hclear
  rw [step, execute, if_neg hfaulted, if_pos (State.fetchable_iff.mpr hfetch), executeWord, hdec]
  rfl

/-- Settles O4: the tag selects the one clause of R91 that can hold, and its secondary field decides it. -/
theorem undefinedWordsAreThoseListed : Obligations.UndefinedWordsAreThoseListed := by
  intro w
  refine ⟨?_, ?_⟩
  · rintro s hclear hfetch rfl hdec
    exact ⟨_, step_of_undefined hclear hfetch hdec, rfl, withFault_onlyChanges s _ _⟩
  · have htag : w.toNat / 0x1000 = (opField w).toNat := by rw [toNat_opField]; omega
    have hlow : w.toNat < 0x1000 ↔ w.toNat / 0x1000 = 0 := by omega
    rw [hlow, htag]
    unfold decode
    split
    case h_1 hop =>
      have hw : w.toNat % 4096 = w.toNat := by simp [hop] at htag; omega
      simp [hop, decodeTag0_undefined_iff, hw]
    case h_6 hop | h_10 hop => simp [hop, nField_eq_zero_iff]
    case h_9 hop => simp [hop, decodeTag8_undefined_iff]
    case h_15 hop => simp [hop, decodeTagE_undefined_iff]
    case h_16 =>
      have hop : opField w = 0xF#4 := by
        clear htag hlow
        generalize opField w = op at *
        revert op
        decide
      simp [hop, decodeTagF_undefined_iff]
    case h_2 hop | h_3 hop | h_4 hop | h_5 hop | h_7 hop | h_8 hop | h_11 hop | h_12 hop | h_13 hop | h_14 hop =>
      simp [hop]

end Sys2Proof.Machine

/-!
Where `pc` goes (spec/30_encoding.md R97). An instruction that completes has passed its check, if it makes one, and
left the state its meaning names; `pc` is then read off the last operation of that meaning.
-/

namespace Sys2Proof.Machine

theorem fault_kind_ne_none_of_raise {k : FaultKind} {w : Word} {s t : State} (hexec : raise k w s = .next t) :
    t.fault.kind ≠ none := by
  obtain rfl := raise_eq_next.mp hexec
  simp

/-- A checked meaning that completes passed the check. -/
theorem eq_of_guarded_completes {c : Prop} [Decidable c] {u : c → State} {s t : State} {k : FaultKind} {w : Word}
    (hexec : (if hc : c then .next (u hc) else raise k w s) = (.next t : Result)) (hdone : t.fault.kind = none) :
    ∃ hc, t = u hc := by
  split at hexec
  next hc => exact ⟨hc, (Host.Outcome.next.inj hexec).symm⟩
  next => exact absurd hdone (fault_kind_ne_none_of_raise hexec)

section
variable {s t : State}

theorem pc_of_advance {u : State} (hexec : (.next u.advance : Result) = .next t) (hu : u.pc = s.pc) :
    t.pc = s.pc + 2 := by
  obtain rfl := Host.Outcome.next.inj hexec
  rw [State.advance_pc, hu]

/-- The same behind a check. -/
theorem pc_of_guarded_advance {c : Prop} [Decidable c] {u : State} {k : FaultKind} {w : Word}
    (hexec : (if c then .next u.advance else raise k w s) = (.next t : Result)) (hdone : t.fault.kind = none)
    (hu : u.pc = s.pc) : t.pc = s.pc + 2 := by
  obtain ⟨-, rfl⟩ := eq_of_guarded_completes hexec hdone
  rw [State.advance_pc, hu]

theorem pc_of_skipIf {c : Bool} (hexec : (.next (s.skipIf c) : Result) = .next t) :
    t.pc = s.pc + 4 ∨ t.pc = s.pc + 2 := by
  obtain rfl := Host.Outcome.next.inj hexec
  cases c
  · exact .inr rfl
  · exact .inl rfl

theorem execRet_pc (hexec : execRet s = .next t) (hdone : t.fault.kind = none) :
    ∃ k : Fin 16, k.val + 1 = s.sp.val ∧ t.pc = s.cell k := by
  obtain ⟨hsp, rfl⟩ := eq_of_guarded_completes hexec hdone
  exact ⟨_, Nat.sub_add_cancel hsp, s.popToPc_pc hsp⟩

theorem execCall_pc {nnn : Addr} (hexec : execCall nnn s = .next t) (hdone : t.fault.kind = none) :
    t.pc.toNat = nnn.toNat := by
  obtain ⟨-, rfl⟩ := eq_of_guarded_completes hexec hdone
  exact zextAddr_toNat nnn

theorem execSkp_pc {x : Reg} (hexec : execSkp x s = .next t) (hdone : t.fault.kind = none) :
    t.pc = s.pc + 4 ∨ t.pc = s.pc + 2 := by
  cases hkey : keyNumber (s.getV x) with
  | none => exact absurd hdone (fault_kind_ne_none_of_raise ((execSkp_of_none x hkey).symm.trans hexec))
  | some k => exact pc_of_skipIf ((execSkp_of_key x hkey).symm.trans hexec)

theorem execSknp_pc {x : Reg} (hexec : execSknp x s = .next t) (hdone : t.fault.kind = none) :
    t.pc = s.pc + 4 ∨ t.pc = s.pc + 2 := by
  cases hkey : keyNumber (s.getV x) with
  | none => exact absurd hdone (fault_kind_ne_none_of_raise ((execSknp_of_none x hkey).symm.trans hexec))
  | some k => exact pc_of_skipIf ((execSknp_of_key x hkey).symm.trans hexec)

/-- A poll stays at its own address until a key event is pending (R181). -/
theorem execLdVxK_pc {x : Reg} (hexec : execLdVxK x s = .next t) :
    if s.keyLatch = none then t.pc = s.pc else t.pc = s.pc + 2 := by
  cases hkey : s.keyLatch with
  | none =>
    obtain rfl := Host.Outcome.next.inj ((execLdVxK_of_none x hkey).symm.trans hexec)
    simp
  | some k => simpa using pc_of_advance ((execLdVxK_of_some x hkey).symm.trans hexec) rfl

end

/-- Settles O12: each meaning ends with the advance, a skip or its own write of `pc`. -/
theorem thePcAdvancesByTwoUnlessTheOperationSetsIt :
    Obligations.ThePcAdvancesByTwoUnlessTheOperationSetsIt := by
  intro i s t _ hexec hdone
  cases i with
  | ret => exact execRet_pc hexec hdone
  | callNnn nnn => exact execCall_pc hexec hdone
  | jpNnn nnn =>
    obtain rfl := Host.Outcome.next.inj hexec
    exact zextAddr_toNat nnn
  | jpV0Nnn nnn =>
    obtain rfl := Host.Outcome.next.inj hexec
    exact jumpOffsetTarget_toNat s nnn
  | seVxNn _ _ | sneVxNn _ _ | seVxVy _ _ | sneVxVy _ _ => exact pc_of_skipIf hexec
  | skpVx x => exact execSkp_pc hexec hdone
  | sknpVx x => exact execSknp_pc hexec hdone
  | ldVxK x => exact execLdVxK_pc hexec
  | drwVxVyN _ _ _ | ldBVx _ | ldMemVx _ | ldVxMem _ => exact pc_of_guarded_advance hexec hdone rfl
  | cls | ldVxNn _ _ | addVxNn _ _ | ldVxVy _ _ | orVxVy _ _ | andVxVy _ _ | xorVxVy _ _ | addVxVy _ _
  | subVxVy _ _ | shrVx _ _ | subnVxVy _ _ | shlVx _ _ | ldINnn _ | rndVxNn _ _ | ldVxDt _ | ldDtVx _ | ldStVx _
  | addIVx _ | ldFVx _ => exact pc_of_advance hexec rfl

end Sys2Proof.Machine

/-!
Control transfer (spec/40_control_flow.md R110 to R117). The words are read off their format; each meaning is one of
the two cases of its check, or one write of `pc`.
-/

namespace Sys2Proof.Machine

/-! ### Call and return -/

/-- An instruction whose meaning takes the fault under its own word raises it (R206). -/
theorem raises_of_withFault {i : Instr} {s : State} {k : FaultKind}
    (hexec : exec i s = .next (s.withFault k (encode i))) : Raises i s k :=
  ⟨_, hexec, State.withFault_fault s k _, withFault_onlyChanges s k _⟩

/-- Entering a subroutine, as a call with room does, writes the stack, its pointer and `pc` (R112). -/
theorem State.push_setPc_onlyChanges (s : State) (w target : Word) (hsp : s.sp.val < 16) :
    OnlyChanges [.stack, .sp, .pc] s ((s.push w hsp).setPc target) :=
  ((s.push_onlyChanges w hsp).mono (by simp)).trans (((s.push w hsp).setPc_onlyChanges target).mono (by simp))

/-- Settles O32: the check on SP passes or fails; when it passes, a push and a write of `pc`. -/
theorem callPushesTheReturnAddressOrOverflows : Obligations.CallPushesTheReturnAddressOrOverflows := by
  intro nnn s
  refine ⟨toNat_formatNNN 0x2 nnn, fun hroom => ?_, fun hfull => raises_of_withFault (execCall_of_full nnn hfull)⟩
  exact ⟨_, execCall_of_lt nnn hroom, s.cell_push (s.pc + 2) hroom, rfl, zextAddr_toNat nnn,
    s.push_setPc_onlyChanges _ _ hroom⟩

/-- Settles O33: the check on SP passes or fails; when it passes, `pc` is the one cell whose number is the new SP. -/
theorem returnPopsThePcOrUnderflows : Obligations.ReturnPopsThePcOrUnderflows := by
  intro s
  refine ⟨toNat_formatNNN 0x0 0x0EE, fun hentry => ?_, fun hempty => raises_of_withFault (execRet_of_empty hempty)⟩
  refine ⟨_, execRet_of_pos hentry, rfl, fun k hk => ?_, s.popToPc_onlyChanges hentry⟩
  exact (s.popToPc_pc hentry).trans (congrArg s.cell (Fin.ext hk.symm))

/-! ### Skips -/

theorem State.skipIf_onlyChanges (s : State) (c : Bool) : OnlyChanges [.pc] s (s.skipIf c) := by
  rw [State.skipIf_eq]
  exact s.setPc_onlyChanges _

/-- A conditional skip completes and changes `pc` alone, by 4 or by 2 as its condition says (R97). -/
theorem skipIf_completes (s : State) {c : Bool} {skips stays : Prop} (hskip : skips → c = true)
    (hstay : stays → c = false) :
    ∃ t, (.next (s.skipIf c) : Result) = .next t ∧ OnlyChanges [.pc] s t ∧
      (skips → t.pc = s.pc + 4) ∧ (stays → t.pc = s.pc + 2) := by
  refine ⟨_, rfl, s.skipIf_onlyChanges c, fun h => ?_, fun h => ?_⟩
  · rw [hskip h, State.skipIf_true, State.skip_pc]
  · rw [hstay h, State.skipIf_false, State.advance_pc]

/-- Settles O30: each skip is a conditional skip on its comparison; the other words of tags 5 and 9 are among those
R91 lists. -/
theorem registerSkipsAddFourOrTwo : Obligations.RegisterSkipsAddFourOrTwo := by
  intro x y nn s
  refine ⟨⟨toNat_formatXNN 0x3 x nn, skipIf_completes s beq_iff_eq.mpr beq_eq_false_iff_ne.mpr⟩,
    ⟨toNat_formatXNN 0x4 x nn, skipIf_completes s bne_iff_ne.mpr bne_eq_false_iff_eq.mpr⟩,
    ⟨toNat_formatXYN 0x5 0x0 x y, skipIf_completes s beq_iff_eq.mpr beq_eq_false_iff_ne.mpr⟩,
    ⟨toNat_formatXYN 0x9 0x0 x y, skipIf_completes s bne_iff_ne.mpr bne_eq_false_iff_eq.mpr⟩, ?_⟩
  intro w htag hn
  refine (undefinedWordsAreThoseListed w).2.mpr ?_
  rcases htag with h5 | h9
  · exact .inr (.inl ⟨h5, hn⟩)
  · exact .inr (.inr (.inl ⟨h9, hn⟩))

/-! ### Jumps -/

/-- A `pc` whose two bytes are not both memory faults at the fetch, with opcode 0 (R84 step 2, R204). -/
theorem step_of_unfetchable {s : State} (hclear : s.fault.kind = none) (hpc : s.pc.toNat > 0xFFE) :
    step s = .next (s.withFault .addressOutOfRange 0x0000) := by
  have hfaulted : ¬ s.faulted = true := fun h => State.faulted_iff.mp h hclear
  have hfetch : ¬ s.fetchable = true := fun h => by
    have := State.fetchable_iff.mp h
    omega
  rw [step, execute, if_neg hfaulted, if_neg hfetch]
  rfl

/-- A jump completes whatever its target is and changes `pc` alone; a target that cannot be fetched faults at the
next step (R111, R117). -/
theorem setPc_completes (s : State) {target : Word} {n : Nat} (htarget : target.toNat = n) :
    ∃ t, (.next (s.setPc target) : Result) = .next t ∧ t.pc.toNat = n ∧ OnlyChanges [.pc] s t ∧
      (s.fault.kind = none → t.pc.toNat > 0xFFE →
        ∃ u, step t = .next u ∧ u.fault = ⟨some .addressOutOfRange, 0x0000, t.pc⟩) :=
  ⟨_, rfl, htarget, s.setPc_onlyChanges target,
    fun hclear hpc => ⟨_, step_of_unfetchable (s := s.setPc target) hclear hpc, State.withFault_fault _ _ _⟩⟩

/-- Settles O31: both meanings are one write of `pc`; `nnn + V0` stays below 2^16, so it is written unreduced. -/
theorem jumpsSetThePcAndNothingElse : Obligations.JumpsSetThePcAndNothingElse := fun nnn s =>
  ⟨⟨toNat_formatNNN 0x1 nnn, setPc_completes s (zextAddr_toNat nnn)⟩,
    ⟨toNat_formatNNN 0xB nnn, setPc_completes s (jumpOffsetTarget_toNat s nnn)⟩⟩

end Sys2Proof.Machine

/-!
Load, arithmetic, logic and shift (spec/41_load_arith_logic.md R130 to R140). Each instruction is one register written
and the advance, or a result, then its flag, and the advance; what differs is the byte, read here as a number.
-/

namespace Sys2Proof.Machine

/-- The words of tag 0x8, by their operation nibble (R87). -/
theorem toNat_formatXYN_tag8 (n : BitVec 4) (x y : Reg) :
    (formatXYN 0x8 x y n).toNat = 0x8000 + n.toNat + x.val * 256 + y.val * 16 := by
  rw [toNat_formatXYN, show (0x8 : BitVec 4).toNat = 8 from rfl]
  omega

/-! ### The bytes as numbers -/

theorem flagByte_toNat (c : Bool) : (flagByte c).toNat = c.toNat := by
  cases c <;> rfl

theorem flagByte_decide_toNat (p : Prop) [Decidable p] : (flagByte (decide p)).toNat = if p then 1 else 0 := by
  rw [flagByte_decide, apply_ite BitVec.toNat]
  rfl

/-- A bit of a byte as a flag (R138, R140). -/
theorem flagByte_getLsbD_toNat (a : Byte) (k : Nat) : (flagByte (a.getLsbD k)).toNat = a.toNat / 2 ^ k % 2 := by
  rw [flagByte_toNat, BitVec.getLsbD, Nat.toNat_testBit]

theorem flagByte_lostRight_toNat (a : Byte) : (flagByte (lostRight a)).toNat = a.toNat % 2 := by
  rw [lostRight, flagByte_getLsbD_toNat, pow_zero, Nat.div_one]

/-- A byte is below 256, so its bit 7 is its quotient by 128. -/
theorem flagByte_lostLeft_toNat (a : Byte) : (flagByte (lostLeft a)).toNat = a.toNat / 128 := by
  have := a.isLt
  rw [lostLeft, flagByte_getLsbD_toNat]
  omega

theorem shiftedRight_toNat (a : Byte) : (shiftedRight a).toNat = a.toNat / 2 := by
  rw [shiftedRight, BitVec.toNat_ushiftRight, Nat.shiftRight_one]

theorem shiftedLeft_toNat (a : Byte) : (shiftedLeft a).toNat = a.toNat * 2 % 256 := by
  rw [shiftedLeft, BitVec.toNat_shiftLeft, Nat.shiftLeft_eq, pow_one]

/-! ### A result and a flag -/

theorem State.setResultAndFlag_onlyChanges (s : State) (x : Reg) (result flag : Byte) :
    OnlyChanges [.v] s (s.setResultAndFlag x result flag) :=
  (s.setV_onlyChanges x result).trans ((s.setV x result).setV_onlyChanges VF flag)

/-- Writing registers and advancing writes the registers and `pc`. -/
theorem OnlyChanges.advance {s t : State} (h : OnlyChanges [.v] s t) : OnlyChanges [.v, .pc] s t.advance :=
  (h.mono (by simp)).trans ((t.setPc_onlyChanges _).mono (by simp))

/-- What an instruction that ends with a result and a flag leaves: the flag in VF whatever `x` is, the result in any
other `V[x]`, everything else as it was (R5). -/
theorem State.advance_setResultAndFlag_spec (s : State) (x : Reg) {result flag : Byte} {m n : Nat}
    (hflag : flag.toNat = m) (hresult : result.toNat = n) :
    let t := (s.setResultAndFlag x result flag).advance
    t.pc = s.pc + 2 ∧ (t.getV VF).toNat = m ∧ (x ≠ VF → (t.getV x).toNat = n) ∧
      (∀ r, r ≠ x → r ≠ VF → t.getV r = s.getV r) ∧ OnlyChanges [.v, .pc] s t := by
  refine ⟨rfl, ?_, fun hx => ?_, fun r hrx hrVF => ?_, (s.setResultAndFlag_onlyChanges x result flag).advance⟩
  · rw [State.advance_getV, State.getV_setResultAndFlag, if_pos rfl, hflag]
  · rw [State.advance_getV, State.getV_setResultAndFlag, if_neg hx, if_pos rfl, hresult]
  · rw [State.advance_getV, State.getV_setResultAndFlag, if_neg hrVF, if_neg hrx]

/-- Settles O27: a result and a flag, the wrapped sum and its carry. -/
theorem addWritesTheWrappedSumThenTheCarry : Obligations.AddWritesTheWrappedSumThenTheCarry := fun x y s =>
  ⟨toNat_formatXYN_tag8 0x4 x y, _, rfl,
    s.advance_setResultAndFlag_spec x (flagByte_decide_toNat _) (sumByte_toNat _ _)⟩

/-- Settles O28: both are a result and a flag, the wrapped difference and whether there was no borrow, with the
operands of the second exchanged. -/
theorem subtractsWriteTheWrappedDifferenceThenNotBorrow :
    Obligations.SubtractsWriteTheWrappedDifferenceThenNotBorrow := fun x y s =>
  ⟨⟨toNat_formatXYN_tag8 0x5 x y, _, rfl,
      s.advance_setResultAndFlag_spec x (flagByte_decide_toNat _) (differenceByte_toNat _ _)⟩,
    ⟨toNat_formatXYN_tag8 0x7 x y, _, rfl,
      s.advance_setResultAndFlag_spec x (flagByte_decide_toNat _) (differenceByte_toNat _ _)⟩⟩

/-- Settles O29: both are a result and a flag, the shifted byte and the bit it lost; neither names `y`, so one next
state serves every `y`. -/
theorem shiftsMoveVxByOneBitAndIgnoreY : Obligations.ShiftsMoveVxByOneBitAndIgnoreY := fun x y s =>
  ⟨⟨toNat_formatXYN_tag8 0x6 x y, _, fun _ => rfl,
      s.advance_setResultAndFlag_spec x (flagByte_lostRight_toNat _) (shiftedRight_toNat _)⟩,
    ⟨toNat_formatXYN_tag8 0xE x y, _, fun _ => rfl,
      s.advance_setResultAndFlag_spec x (flagByte_lostLeft_toNat _) (shiftedLeft_toNat _)⟩⟩

/-! ### One register -/

/-- An instruction that writes one register completes: that register, then `pc`, and nothing else (R4, R97). -/
theorem setV_advance_completes (s : State) (x : Reg) (b : Byte) :
    ∃ t, (.next (s.setV x b).advance : Result) = .next t ∧ t.pc = s.pc + 2 ∧
      (∀ r, t.getV r = if r = x then b else s.getV r) ∧ OnlyChanges [.v, .pc] s t :=
  ⟨_, rfl, rfl, fun r => s.getV_setV x r b, (s.setV_onlyChanges x b).advance⟩

/-- 7xnn, whose sum is said as a number (R131). -/
theorem execAddByte_completes (x : Reg) (nn : Byte) (s : State) :
    ∃ t, execAddByte x nn s = .next t ∧ t.pc = s.pc + 2 ∧
      (t.getV x).toNat = ((s.getV x).toNat + nn.toNat) % 256 ∧
      (∀ r, r ≠ x → t.getV r = s.getV r) ∧ OnlyChanges [.v, .pc] s t := by
  obtain ⟨t, hexec, hpc, hregs, hframe⟩ := setV_advance_completes s x (sumByte (s.getV x) nn)
  refine ⟨t, hexec, hpc, ?_, fun r hr => (hregs r).trans (if_neg hr), hframe⟩
  rw [hregs, if_pos rfl, sumByte_toNat]

/-- Settles O26: each writes one register and advances; none of them writes a flag. -/
theorem loadsAddImmediateAndLogicWriteOneRegister : Obligations.LoadsAddImmediateAndLogicWriteOneRegister :=
  fun x y nn s =>
    ⟨⟨toNat_formatXNN 0x6 x nn, setV_advance_completes s x nn⟩,
      ⟨toNat_formatXNN 0x7 x nn, execAddByte_completes x nn s⟩,
      ⟨toNat_formatXYN_tag8 0x0 x y, setV_advance_completes s x _⟩,
      ⟨toNat_formatXYN_tag8 0x1 x y, setV_advance_completes s x _⟩,
      ⟨toNat_formatXYN_tag8 0x2 x y, setV_advance_completes s x _⟩,
      ⟨toNat_formatXYN_tag8 0x3 x y, setV_advance_completes s x _⟩⟩

end Sys2Proof.Machine

/-!
Index register and memory (spec/42_index_memory.md R150 to R155). Three instructions are one write of `I` and the
advance. The other three make one range check from `I` and then store bytes there or load registers from there.
-/

namespace Sys2Proof.Machine

/-- The words of tag 0xF, by their low byte (R89). -/
theorem toNat_formatXNN_tagF (nn : Byte) (x : Reg) :
    (formatXNN 0xF x nn).toNat = 0xF000 + nn.toNat + x.val * 256 := by
  rw [toNat_formatXNN, show (0xF : BitVec 4).toNat = 15 from rfl]
  omega

/-- Writing one part and advancing writes that part and `pc`. -/
theorem OnlyChanges.part_advance {p : Part} {s t : State} (h : OnlyChanges [p] s t) :
    OnlyChanges [p, .pc] s t.advance :=
  (h.mono (by simp)).trans ((t.setPc_onlyChanges _).mono (by simp))

/-! ### The index register -/

/-- The sum of Fx1E keeps all sixteen bits (R151). -/
theorem add_zextByte_toNat (w : Word) (b : Byte) : (w + zextByte b).toNat = (w.toNat + b.toNat) % 2 ^ 16 := by
  rw [BitVec.toNat_add, zextByte_toNat]

/-- An instruction that writes `I` completes: `I`, then `pc`, and nothing else (R4, R97). -/
theorem setI_advance_completes (s : State) {w : Word} {n : Nat} (hw : w.toNat = n) :
    ∃ t, (.next (s.setI w).advance : Result) = .next t ∧ t.i.toNat = n ∧ t.pc = s.pc + 2 ∧
      OnlyChanges [.i, .pc] s t :=
  ⟨_, rfl, hw, rfl, (s.setI_onlyChanges w).part_advance⟩

/-- Settles O37: each is one write of `I` and the advance; they differ in the number written. -/
theorem theIndexRegisterIsSet : Obligations.TheIndexRegisterIsSet := fun nnn x s =>
  ⟨⟨toNat_formatNNN 0xA nnn, setI_advance_completes s (zextAddr_toNat nnn)⟩,
    ⟨toNat_formatXNN_tagF 0x1E x, setI_advance_completes s (add_zextByte_toNat s.i _)⟩,
    ⟨toNat_formatXNN_tagF 0x29 x, setI_advance_completes s (glyphAddr_toNat (lowNibble_lt _))⟩⟩

/-! ### The range check from `I` -/

/-- `n + 1` bytes from `I` are memory exactly when the last of them is (R8, R52). -/
theorem inRange_effAddr_iff (s : State) (n : Nat) :
    inRange (effAddr s 0) (n + 1) = true ↔ s.i.toNat + n ≤ 0xFFF :=
  inRange_iff_last n.succ_pos

/-- An instruction that is a range check from `I` and one next state completes with that state when the last address
is memory, and raises AddressOutOfRange when it is not (R52, R204). -/
theorem completes_or_raises_of_rangeCheck {i : Instr} {s t : State} {n : Nat} {P : State → Prop}
    (hexec : exec i s =
      if inRange (effAddr s 0) (n + 1) then .next t else raise .addressOutOfRange (encode i) s)
    (ht : s.i.toNat + n ≤ 0xFFF → P t) :
    (s.i.toNat + n ≤ 0xFFF → ∃ u, exec i s = .next u ∧ P u) ∧
      (s.i.toNat + n > 0xFFF → Raises i s .addressOutOfRange) := by
  refine ⟨fun hin => ⟨t, ?_, ht hin⟩, fun hout => raises_of_withFault ?_⟩
  · rw [hexec, if_pos ((inRange_effAddr_iff s n).mpr hin)]
  · rw [hexec, if_neg (mt (inRange_effAddr_iff s n).mp (by omega))]
    rfl

/-! ### Stores and loads -/

/-- What a store from `I` in range leaves: the bytes in order from `I` upward, no other byte touched, and `pc`
advanced (R53, R57). -/
theorem State.advance_writeBytes_spec {s : State} (hm : Memory.wf s.mem = true) {bs : List Byte} {n : Nat}
    (hlen : bs.length = n + 1) (hin : s.i.toNat + n ≤ 0xFFF) :
    let t := (s.writeBytes (effAddr s 0) bs).advance
    t.pc = s.pc + 2 ∧ (∀ k, (hk : k < bs.length) → t.readByte (effAddr s k) = bs[k]) ∧
      (∀ a, a < effAddr s 0 ∨ effAddr s 0 + (n + 1) ≤ a → t.readByte a = s.readByte a) ∧
      OnlyChanges [.mem, .pc] s t := by
  have hr : effAddr s 0 + bs.length ≤ Config.memSize :=
    hlen ▸ (inRange_iff n.succ_pos).mp ((inRange_effAddr_iff s n).mpr hin)
  exact ⟨rfl, fun k hk => State.readByte_writeBytes_inside hm _ bs hr k hk,
    fun a ha => State.readByte_writeBytes_outside hm _ a bs (hlen ▸ ha),
    (s.writeBytes_onlyChanges _ bs).part_advance⟩

/-- The three digits as numbers: each fits a byte, so none is reduced (R153). -/
theorem bcdDigits_toNat (b : Byte) :
    (bcdDigits b)[0].toNat = b.toNat / 100 ∧ (bcdDigits b)[1].toNat = b.toNat / 10 % 10 ∧
      (bcdDigits b)[2].toNat = b.toNat % 10 := by
  have := b.isLt
  have hdigit {d : Nat} (hd : d < 2 ^ 8) : (BitVec.ofNat 8 d).toNat = d :=
    (BitVec.toNat_ofNat d 8).trans (Nat.mod_eq_of_lt hd)
  exact ⟨hdigit (by omega), hdigit (by omega), hdigit (by omega)⟩

/-- Settles O39: a range check of three bytes from `I`, and a store of the three digits there. -/
theorem bcdStoresThreeDigitsOrFaults : Obligations.BcdStoresThreeDigitsOrFaults := by
  intro x s hm
  refine ⟨toNat_formatXNN_tagF 0x33 x, completes_or_raises_of_rangeCheck rfl fun hin => ?_⟩
  obtain ⟨hpc, hstored, hrest, hframe⟩ := State.advance_writeBytes_spec hm (bcdDigits_length (s.getV x)) hin
  obtain ⟨hhundreds, htens, hones⟩ := bcdDigits_toNat (s.getV x)
  refine ⟨hpc, ?_, ?_, ?_, hrest, hframe⟩
  · rw [hstored 0 (by simp), hhundreds]
  · rw [hstored 1 (by simp), htens]
  · rw [hstored 2 (by simp), hones]

/-- Settles O40: a range check of `x + 1` bytes from `I`, and a store of V0..Vx there. -/
theorem storeRegistersStoresTheInclusiveRangeOrFaults :
    Obligations.StoreRegistersStoresTheInclusiveRangeOrFaults := by
  intro x s hm
  refine ⟨toNat_formatXNN_tagF 0x55 x, completes_or_raises_of_rangeCheck rfl fun hin => ?_⟩
  obtain ⟨hpc, hstored, hrest, hframe⟩ := State.advance_writeBytes_spec hm (registersUpTo_length s x) hin
  refine ⟨hpc, fun r hr => ?_, hrest, hframe⟩
  have hk : r.val < (registersUpTo s x).length := by rw [registersUpTo_length]; omega
  rw [hstored r.val hk, registersUpTo_get]

/-- Settles O41: a range check of `x + 1` bytes from `I`, and one write of the register file, read from there up to
`x` and kept above it. -/
theorem loadRegistersLoadsTheInclusiveRangeOrFaults :
    Obligations.LoadRegistersLoadsTheInclusiveRangeOrFaults := by
  intro x s
  refine ⟨toNat_formatXNN_tagF 0x65 x, completes_or_raises_of_rangeCheck rfl fun _ => ?_⟩
  exact ⟨rfl, registersLoaded_getV s x, (s.setRegs_onlyChanges _).part_advance⟩

end Sys2Proof.Machine

/-!
Display, keypad and timers (spec/43_peripheral_io.md R170 to R183). CLS and the timer instructions are one write and
the advance. The key skips test the level of a key that has to exist first, and Fx0A is one poll of the key event.
-/

namespace Sys2Proof.Machine

/-- The words whose low byte is fixed, by that byte (R88, R89). -/
theorem toNat_formatXNN_fixedByte (op : BitVec 4) (nn : Byte) (x : Reg) :
    (formatXNN op x nn).toNat = (op.toNat * 4096 + nn.toNat) + x.val * 256 := by
  rw [toNat_formatXNN, Nat.add_right_comm]

/-! ### Key skips -/

theorem State.skipIf_not_pc (s : State) (c : Bool) :
    (s.skipIf (!c)).pc = if c = true then s.pc + 2 else s.pc + 4 := by
  cases c
  · exact s.skip_pc
  · exact s.advance_pc

/-- Settles O48: a register above 15 names no key and faults; otherwise each is a conditional skip, on the level of the
key it names or on the opposite. -/
theorem keySkipsTestTheLevelOrFault : Obligations.KeySkipsTestTheLevelOrFault := by
  intro x s
  refine ⟨toNat_formatXNN_fixedByte 0xE 0x9E x, toNat_formatXNN_fixedByte 0xE 0xA1 x, fun k hk => ?_,
    fun habove => ?_⟩
  · have hkey : keyNumber (s.getV x) = some k := keyNumber_eq_some.mpr hk
    exact ⟨⟨_, execSkp_of_key x hkey, s.skipIf_onlyChanges _, s.skipIf_pc _⟩,
      ⟨_, execSknp_of_key x hkey, s.skipIf_onlyChanges _, s.skipIf_not_pc _⟩⟩
  · have hnone : keyNumber (s.getV x) = none := keyNumber_eq_none.mpr habove
    exact ⟨raises_of_withFault (execSkp_of_none x hnone), raises_of_withFault (execSknp_of_none x hnone)⟩

/-! ### Waiting for a key -/

/-- Taking the event when there is none changes nothing (R173). -/
theorem State.afterKeyEvent_of_none {s : State} (h : s.keyLatch = none) : s.afterKeyEvent = s := by
  rw [State.afterKeyEvent, ← h]

/-- A key number fits a byte. -/
theorem keyByte_toNat (k : Key) : (BitVec.ofNat 8 k.val).toNat = k.val :=
  (BitVec.toNat_ofNat _ _).trans (Nat.mod_eq_of_lt (by omega))

/-- What a poll that finds key `k` leaves: it writes what Fx0A writes when an event is pending and nothing else
(R181). -/
theorem withinWrites_of_keyEvent {s : State} (x : Reg) {k : Key} (h : s.keyLatch = some k) :
    WithinWrites (.ldVxK x) s ((s.afterKeyEvent.setV x (BitVec.ofNat 8 k.val)).setAwait false).advance := by
  have hx : writesRegister s x (.ldVxK x) := ⟨by simp [h], rfl⟩
  exact ((WithinWrites.refl.afterKeyEvent.setV _ hx).setAwait _).advance

/-- Settles O49: a poll without an event is one write of AWAIT; with one, the registers other than `V[x]` and the other
parts are outside what Fx0A writes. -/
theorem waitForKeyPollsOnce : Obligations.WaitForKeyPollsOnce := by
  intro x s
  refine ⟨toNat_formatXNN_tagF 0x0A x, fun hnone => ?_, fun k hsome => ?_⟩
  · refine ⟨_, execLdVxK_of_none x hnone, rfl, ?_⟩
    rw [State.afterKeyEvent_of_none hnone]
    exact s.setAwait_onlyChanges true
  · have hwithin := withinWrites_of_keyEvent x hsome
    refine ⟨_, execLdVxK_of_some x hsome, ?_, fun r hr => hwithin.registers r fun hw => hr hw.2, rfl, rfl, rfl,
      hwithin.parts.mono (by simp [Instr.writes])⟩
    exact (congrArg BitVec.toNat (s.afterKeyEvent.getV_setV_self x _)).trans (keyByte_toNat k)

/-! ### Display and timers -/

/-- Settles O44: one write of the framebuffer, with the blank one, and the advance. -/
theorem clearDisplayZeroesEveryPixel : Obligations.ClearDisplayZeroesEveryPixel := fun s =>
  ⟨toNat_formatNNN 0x0 0x0E0, _, rfl, Framebuffer.pixel_blank, rfl,
    (s.setFb_onlyChanges Framebuffer.blank).part_advance⟩

/-- Settles O51: each is one write, of a register or of a timer, and the advance. -/
theorem timerInstructionsMoveOneByte : Obligations.TimerInstructionsMoveOneByte := fun x s =>
  ⟨⟨toNat_formatXNN_tagF 0x07 x, setV_advance_completes s x s.dt⟩,
    ⟨toNat_formatXNN_tagF 0x15 x, _, rfl, rfl, rfl, (s.setDt_onlyChanges (s.getV x)).part_advance⟩,
    ⟨toNat_formatXNN_tagF 0x18 x, _, rfl, rfl, rfl, (s.setSt_onlyChanges (s.getV x)).part_advance⟩⟩

end Sys2Proof.Machine

/-!
The word of a decoded instruction (spec/30_encoding.md R81, R95). Under each tag the fields that select an instruction
and the fields that are its operands make up the word, so the encoder gives the word back.
-/

namespace Sys2Proof

section
variable {w : Word} {op : BitVec 4}

theorem formatNNN_of_opField (hop : opField w = op) : formatNNN op (nnnField w) = w :=
  hop ▸ (eq_formatNNN w).symm

theorem formatNNN_of_fields {nnn : Addr} (hop : opField w = op) (hnnn : nnnField w = nnn) :
    formatNNN op nnn = w := hnnn ▸ formatNNN_of_opField hop

theorem formatXNN_of_opField (hop : opField w = op) : formatXNN op (xField w) (nnField w) = w :=
  hop ▸ (eq_formatXNN w).symm

theorem formatXNN_of_fields {nn : Byte} (hop : opField w = op) (hnn : nnField w = nn) :
    formatXNN op (xField w) nn = w := hnn ▸ formatXNN_of_opField hop

theorem formatXYN_of_fields {n : BitVec 4} (hop : opField w = op) (hn : nField w = n) :
    formatXYN op (xField w) (yField w) n = w := hop ▸ hn ▸ (eq_formatXYN w).symm

theorem encode_of_decodeTag0 {i : Instr} (hop : opField w = 0x0) (h : decodeTag0 w = .ok i) : encode i = w := by
  unfold decodeTag0 at h
  split_ifs at h with hcls hret
  · cases h; exact formatNNN_of_fields hop hcls
  · cases h; exact formatNNN_of_fields hop hret

theorem encode_of_decodeTag8 {i : Instr} (hop : opField w = 0x8) (h : decodeTag8 w = .ok i) : encode i = w := by
  unfold decodeTag8 at h
  split at h <;> cases h
  all_goals exact formatXYN_of_fields hop ‹_›

theorem encode_of_decodeTagE {i : Instr} (hop : opField w = 0xE) (h : decodeTagE w = .ok i) : encode i = w := by
  unfold decodeTagE at h
  split at h <;> cases h
  all_goals exact formatXNN_of_fields hop ‹_›

theorem encode_of_decodeTagF {i : Instr} (hop : opField w = 0xF) (h : decodeTagF w = .ok i) : encode i = w := by
  unfold decodeTagF at h
  split at h <;> cases h
  all_goals exact formatXNN_of_fields hop ‹_›

/-- The encoder gives back the word an instruction was decoded from: the tag selects the format. -/
theorem encode_of_decode {i : Instr} (h : decode w = .ok i) : encode i = w := by
  unfold decode at h
  split at h
  case h_1 hop => exact encode_of_decodeTag0 hop h
  case h_9 hop => exact encode_of_decodeTag8 hop h
  case h_15 hop => exact encode_of_decodeTagE hop h
  case h_16 =>
    have hop : opField w = 0xF#4 := by
      clear h
      generalize opField w = op at *
      revert op
      decide
    exact encode_of_decodeTagF hop h
  case h_6 hop | h_10 hop =>
    split_ifs at h with hn
    cases h
    exact formatXYN_of_fields hop hn
  case h_14 hop =>
    cases h
    exact formatXYN_of_fields hop (by simp)
  case h_2 hop | h_3 hop | h_11 hop | h_12 hop =>
    cases h
    exact formatNNN_of_opField hop
  case h_4 hop | h_5 hop | h_7 hop | h_8 hop | h_13 hop =>
    cases h
    exact formatXNN_of_opField hop

end

end Sys2Proof

/-!
Faults (spec/60_exceptions.md R200 to R209). An instruction decides by one check whether it raises, and of what kind;
`Instr.raised` says so. A step decides in the order of R209, the fetch, the decoder, the instruction; `State.raised`
says so. A step that raises takes that fault under the word fetched, and no other step touches the record.
-/

namespace Sys2Proof

/-- The kind of fault an instruction raises at a state, none where it completes (R202 to R205). -/
def Instr.raised (s : Machine.State) : Instr → Option Machine.FaultKind
  | .callNnn _ => if s.sp.val = 16 then some .stackOverflow else none
  | .ret => if s.sp.val = 0 then some .stackUnderflow else none
  | .drwVxVyN _ _ n => if 1 ≤ n ∧ s.i.toNat + n - 1 > 0xFFF then some .addressOutOfRange else none
  | .ldBVx _ => if s.i.toNat + 2 > 0xFFF then some .addressOutOfRange else none
  | .ldMemVx x | .ldVxMem x => if s.i.toNat + x.val > 0xFFF then some .addressOutOfRange else none
  | .skpVx x | .sknpVx x => if (s.getV x).toNat > 15 then some .keyIndexOutOfRange else none
  | .cls | .jpNnn _ | .jpV0Nnn _ | .seVxNn _ _ | .sneVxNn _ _ | .seVxVy _ _ | .sneVxVy _ _ | .ldVxNn _ _
  | .addVxNn _ _ | .ldVxVy _ _ | .orVxVy _ _ | .andVxVy _ _ | .xorVxVy _ _ | .addVxVy _ _ | .subVxVy _ _
  | .shrVx _ _ | .subnVxVy _ _ | .shlVx _ _ | .ldINnn _ | .rndVxNn _ _ | .ldVxDt _ | .ldVxK _ | .ldDtVx _
  | .ldStVx _ | .addIVx _ | .ldFVx _ => none

end Sys2Proof

namespace Sys2Proof.Machine

/-! ### What an answer does to the record -/

/-- The result is a next state that takes the fault `kind` under the word `w`, or where `kind` is none one with the
record as it was. -/
def TakesFault (kind : Option FaultKind) (w : Word) (s : State) (r : Result) : Prop :=
  ∃ t, r = .next t ∧ ((∃ k, kind = some k ∧ t = s.withFault k w) ∨ (kind = none ∧ t.fault = s.fault))

namespace TakesFault

variable {s : State} {w : Word} {k : FaultKind}

theorem raises : TakesFault (some k) w s (raise k w s) := ⟨_, rfl, .inl ⟨k, rfl, rfl⟩⟩

theorem completes {t : State} (h : t.fault = s.fault) : TakesFault none w s (.next t) := ⟨t, rfl, .inr ⟨rfl, h⟩⟩

/-- A check before any write (R52, R202, R203), where `cause` says when it fails. -/
theorem guarded {c cause : Prop} [Decidable c] [Decidable cause] {t : c → State} (hcause : c ↔ ¬ cause)
    (ht : ∀ hc, (t hc).fault = s.fault) :
    TakesFault (if cause then some k else none) w s (if hc : c then .next (t hc) else raise k w s) := by
  by_cases hc : c
  · rw [dif_pos hc, if_neg (hcause.mp hc)]
    exact completes (ht hc)
  · rw [dif_neg hc, if_pos (not_not.mp (mt hcause.mpr hc))]
    exact raises

/-- The range check of `n + 1` bytes from `I`. -/
theorem rangeChecked {n : Nat} {t : State} (ht : t.fault = s.fault) :
    TakesFault (if s.i.toNat + n > 0xFFF then some .addressOutOfRange else none) w s
      (if inRange (effAddr s 0) (n + 1) then .next t else raise .addressOutOfRange w s) :=
  guarded ((inRange_effAddr_iff s n).trans Nat.not_lt.symm) fun _ => ht

/-- A key skip's check that the register names a key, before it skips or not (R178, R179). -/
theorem keyChecked {x : Reg} {r : Result}
    (hkey : ∀ k, keyNumber (s.getV x) = some k → ∃ c, r = .next (s.skipIf c))
    (hnone : keyNumber (s.getV x) = none → r = .next (s.withFault .keyIndexOutOfRange w)) :
    TakesFault (if (s.getV x).toNat > 15 then some .keyIndexOutOfRange else none) w s r := by
  cases h : keyNumber (s.getV x) with
  | none =>
    rw [hnone h, if_pos (keyNumber_eq_none.mp h)]
    exact raises
  | some k =>
    obtain ⟨c, rfl⟩ := hkey k h
    rw [if_neg fun habove => by simp [keyNumber_eq_none.mpr habove] at h]
    exact completes (s.skipIf_fault c)

variable {kind : Option FaultKind} {t : State}

theorem of_next (h : TakesFault kind w s (.next t)) :
    (∃ k, kind = some k ∧ t = s.withFault k w) ∨ (kind = none ∧ t.fault = s.fault) := by
  obtain ⟨u, hu, hfault⟩ := h
  exact Host.Outcome.next.inj hu ▸ hfault

/-- The kind latched in the record of a machine that had none. -/
theorem kind_eq (h : TakesFault kind w s (.next t)) (hclear : s.fault.kind = none) : t.fault.kind = kind := by
  obtain ⟨k, rfl, rfl⟩ | ⟨rfl, hfault⟩ := h.of_next
  · rfl
  · rw [hfault, hclear]

/-- A fault latched in a machine that had none is the one taken. -/
theorem eq_withFault (h : TakesFault kind w s (.next t)) (hclear : s.fault.kind = none)
    (hset : t.fault.kind ≠ none) : ∃ k, t = s.withFault k w := by
  obtain ⟨k, -, ht⟩ | ⟨-, hfault⟩ := h.of_next
  · exact ⟨k, ht⟩
  · exact absurd (hfault ▸ hclear) hset

end TakesFault

/-! ### Instructions -/

/-- The range check of Dxyn, which no draw of no rows fails (R177, R52). -/
theorem inRange_rows_iff (s : State) (n : Nat) :
    inRange (effAddr s 0) n = true ↔ ¬ (1 ≤ n ∧ s.i.toNat + n - 1 > 0xFFF) := by
  cases n with
  | zero => simp [inRange]
  | succ n => rw [inRange_effAddr_iff]; omega

theorem execLdVxK_takesFault (x : Reg) (w : Word) (s : State) : TakesFault none w s (execLdVxK x s) := by
  cases h : s.keyLatch with
  | none => rw [execLdVxK_of_none x h]; exact .completes rfl
  | some k => rw [execLdVxK_of_some x h]; exact .completes rfl

/-- Every instruction answers a next state and takes exactly the fault it raises, under its own word. -/
theorem exec_takesFault (i : Instr) (s : State) : TakesFault (i.raised s) (encode i) s (exec i s) := by
  cases i with
  | callNnn nnn => exact .guarded (by omega) fun _ => rfl
  | ret => exact .guarded (by omega) fun _ => rfl
  | drwVxVyN x y n => exact .guarded (inRange_rows_iff s n) fun _ => rfl
  | ldBVx _ | ldMemVx _ | ldVxMem _ => exact .rangeChecked rfl
  | skpVx x => exact .keyChecked (fun _ h => ⟨_, execSkp_of_key x h⟩) (execSkp_of_none x)
  | sknpVx x => exact .keyChecked (fun _ h => ⟨_, execSknp_of_key x h⟩) (execSknp_of_none x)
  | ldVxK x => exact execLdVxK_takesFault x _ s
  | seVxNn _ _ | sneVxNn _ _ | seVxVy _ _ | sneVxVy _ _ => exact .completes (s.skipIf_fault _)
  | cls | jpNnn _ | jpV0Nnn _ | ldVxNn _ _ | addVxNn _ _ | ldVxVy _ _ | orVxVy _ _ | andVxVy _ _ | xorVxVy _ _
  | addVxVy _ _ | subVxVy _ _ | shrVx _ _ | subnVxVy _ _ | shlVx _ _ | ldINnn _ | rndVxNn _ _ | ldVxDt _
  | ldDtVx _ | ldStVx _ | addIVx _ | ldFVx _ => exact .completes rfl

/-! ### Steps -/

/-- The word a fault of this step records: the one fetched, 0x0000 when the fetch is out of range (R200, R204). -/
def State.recordedOpcode (s : State) : Word := if s.pc.toNat + 1 ≤ 0xFFF then s.fetchWord else 0x0000

/-- The kind of fault raised at a state for what the decoder answered there: UndefinedOpcode where it is no
instruction (R201), otherwise what the instruction raises. -/
def raisedOnDecoded (s : State) : Except DecodeError Instr → Option FaultKind
  | .ok i => i.raised s
  | .error _ => some .undefinedOpcode

/-- The kind of fault a step from here raises, the first met in the order of R209; none where it completes. -/
def State.raised (s : State) : Option FaultKind :=
  if s.pc.toNat + 1 ≤ 0xFFF then raisedOnDecoded s (decode s.fetchWord) else some .addressOutOfRange

theorem State.raised_of_fetched {s : State} {d : Except DecodeError Instr} (hfetch : s.pc.toNat + 1 ≤ 0xFFF)
    (hdec : decode s.fetchWord = d) : s.raised = raisedOnDecoded s d := by
  rw [State.raised, if_pos hfetch, hdec]

theorem State.raised_of_unfetchable {s : State} (hfetch : ¬ s.pc.toNat + 1 ≤ 0xFFF) :
    s.raised = some .addressOutOfRange := if_neg hfetch

/-- A fetched instruction is run (R84). -/
theorem step_of_decode {s : State} {i : Instr} (hclear : s.fault.kind = none) (hfetch : s.pc.toNat + 1 ≤ 0xFFF)
    (hdec : decode s.fetchWord = .ok i) : step s = exec i s := by
  have hfaulted : ¬ s.faulted = true := fun h => State.faulted_iff.mp h hclear
  rw [step, execute, if_neg hfaulted, if_pos (State.fetchable_iff.mpr hfetch), executeWord, hdec]

/-- A latched fault is returned (R84 step 1, R208). -/
theorem step_of_latched {s : State} (h : s.fault.kind ≠ none) : step s = .fault (.latched s.fault) := by
  rw [step, execute, if_pos (State.faulted_iff.mpr h)]

/-- Every step of an unfaulted machine answers a next state and takes exactly the fault it raises, under the word
fetched (R206, R209). -/
theorem step_takesFault {s : State} (hclear : s.fault.kind = none) :
    TakesFault s.raised s.recordedOpcode s (step s) := by
  by_cases hfetch : s.pc.toNat + 1 ≤ 0xFFF
  · rw [State.recordedOpcode, if_pos hfetch]
    cases hdec : decode s.fetchWord with
    | ok i =>
      rw [State.raised_of_fetched hfetch hdec, step_of_decode hclear hfetch hdec, ← encode_of_decode hdec]
      exact exec_takesFault i s
    | error e =>
      rw [State.raised_of_fetched hfetch hdec, step_of_undefined hclear hfetch hdec]
      exact .raises
  · rw [State.recordedOpcode, if_neg hfetch, State.raised_of_unfetchable hfetch,
      step_of_unfetchable hclear (by omega)]
    exact .raises

/-- Settles O8: a record set by a step was set by taking a fault there, under the word fetched. -/
theorem raisingAFaultWritesOnlyTheRecord : Obligations.RaisingAFaultWritesOnlyTheRecord := by
  intro s t k hclear hstep hkind
  have htakes := hstep ▸ step_takesFault hclear
  obtain ⟨k', rfl⟩ := htakes.eq_withFault hclear (by simp [hkind])
  exact ⟨rfl, rfl, withFault_onlyChanges s k' _⟩

/-! ### The cause of each kind -/

theorem FaultRecord.code_eq_iff (r : FaultRecord) (k : FaultKind) : r.code = k.code ↔ r.kind = some k := by
  obtain ⟨_ | j, _, _⟩ := r
  · cases k <;> simp [FaultRecord.code, FaultKind.code]
  · cases j <;> cases k <;> simp [FaultRecord.code, FaultKind.code]

theorem FaultRecord.kind_ne_none_of_code {r : FaultRecord} (h : r.code ≠ 0) : r.kind ≠ none := fun hnone =>
  h (by rw [FaultRecord.code, hnone])

section
variable (s : State)

/-- Only the fetch and an operation raise AddressOutOfRange (R204). -/
theorem State.raised_addressOutOfRange_iff :
    s.raised = some .addressOutOfRange ↔
      s.pc.toNat + 1 > 0xFFF ∨ raisedOnDecoded s (decode s.fetchWord) = some .addressOutOfRange := by
  by_cases hfetch : s.pc.toNat + 1 ≤ 0xFFF
  · rw [s.raised_of_fetched hfetch rfl, or_iff_right (Nat.not_lt.mpr hfetch)]
  · exact iff_of_true (s.raised_of_unfetchable hfetch) (.inl (Nat.lt_of_not_le hfetch))

/-- The other kinds are raised behind the fetch (R209). -/
theorem State.raised_iff_of_ne {k : FaultKind} (hk : k ≠ .addressOutOfRange) :
    s.raised = some k ↔ s.pc.toNat + 1 ≤ 0xFFF ∧ raisedOnDecoded s (decode s.fetchWord) = some k := by
  by_cases hfetch : s.pc.toNat + 1 ≤ 0xFFF
  · rw [s.raised_of_fetched hfetch rfl, and_iff_right hfetch]
  · rw [s.raised_of_unfetchable hfetch, Option.some.injEq]
    exact iff_of_false (Ne.symm hk) fun h => hfetch h.1

/-- What makes each kind be raised for what the decoder answered (R201 to R205). -/
def causeOnDecoded (d : Except DecodeError Instr) : FaultKind → Prop
  | .undefinedOpcode => ∀ i, d ≠ .ok i
  | .stackOverflow => s.sp.val = 16 ∧ ∃ nnn, d = .ok (.callNnn nnn)
  | .stackUnderflow => s.sp.val = 0 ∧ d = .ok .ret
  | .addressOutOfRange =>
      (∃ x y n, d = .ok (.drwVxVyN x y n) ∧ 1 ≤ n ∧ s.i.toNat + n - 1 > 0xFFF) ∨
      (∃ x, d = .ok (.ldBVx x) ∧ s.i.toNat + 2 > 0xFFF) ∨
      (∃ x, (d = .ok (.ldMemVx x) ∨ d = .ok (.ldVxMem x)) ∧ s.i.toNat + x.val > 0xFFF)
  | .keyIndexOutOfRange => ∃ x, (s.getV x).toNat > 15 ∧ (d = .ok (.skpVx x) ∨ d = .ok (.sknpVx x))

/-- An instruction that can raise can raise one kind, by its one check; no instruction raises UndefinedOpcode. -/
theorem raisedOnDecoded_eq_some_iff (d : Except DecodeError Instr) (k : FaultKind) :
    raisedOnDecoded s d = some k ↔ causeOnDecoded s d k := by
  cases d with
  | error e => cases k <;> simp [raisedOnDecoded, causeOnDecoded]
  | ok i =>
    rw [raisedOnDecoded]
    unfold Instr.raised
    split <;> cases k <;> simp [causeOnDecoded]
    case h_3.addressOutOfRange | h_4.addressOutOfRange => omega

end

/-- Settles O9: the code in the record is that of the kind the step raises, and each kind has its cause. -/
theorem eachFaultHasExactlyItsCause : Obligations.EachFaultHasExactlyItsCause := by
  refine fun s => ⟨step_of_latched, fun hclear => ?_⟩
  obtain ⟨t, hstep, -⟩ := step_takesFault hclear
  have htakes := hstep ▸ step_takesFault hclear
  have hcode (k : FaultKind) : t.fault.code = k.code ↔ s.raised = some k := by
    rw [FaultRecord.code_eq_iff, htakes.kind_eq hclear]
  have hbehindFetch (k : FaultKind) (hk : k ≠ .addressOutOfRange) :
      t.fault.code = k.code ↔ s.pc.toNat + 1 ≤ 0xFFF ∧ causeOnDecoded s (decode s.fetchWord) k := by
    rw [hcode, s.raised_iff_of_ne hk, raisedOnDecoded_eq_some_iff]
  have haddress : t.fault.code = 4 ↔
      s.pc.toNat + 1 > 0xFFF ∨ causeOnDecoded s (decode s.fetchWord) .addressOutOfRange := by
    rw [← raisedOnDecoded_eq_some_iff, ← s.raised_addressOutOfRange_iff]
    exact hcode .addressOutOfRange
  refine ⟨t, hstep, hbehindFetch .undefinedOpcode nofun, hbehindFetch .stackOverflow nofun,
    hbehindFetch .stackUnderflow nofun, haddress, hbehindFetch .keyIndexOutOfRange nofun, fun hset => ?_⟩
  obtain ⟨k, rfl⟩ := htakes.eq_withFault hclear (FaultRecord.kind_ne_none_of_code hset)
  exact ⟨withFault_onlyChanges s k _, rfl, rfl⟩

end Sys2Proof.Machine

/-!
Latched faults and the timers (spec/60_exceptions.md R208, R213). What each agent's action does to the record, and which
actions and instructions write a timer.
-/

namespace Sys2Proof.Machine

/-! ### Latched faults -/

theorem State.afterExecute_of_latched {s : State} (h : s.fault.kind ≠ none) : s.afterExecute = s := by
  rw [State.afterExecute, step_of_latched h]

@[simp] theorem State.pressKey_fault (s : State) (k : Key) : (s.pressKey k).fault = s.fault := by
  unfold State.pressKey
  split <;> rfl

theorem State.loadRom_fault {s t : State} {bytes : List Byte} (h : s.loadRom bytes = .loaded t) :
    t.fault = s.fault := by
  unfold State.loadRom at h
  split_ifs at h
  cases h
  rfl

/-- A load that is a move stores the image or is refused; neither touches the record (R231). -/
theorem Session.perform_loadRom_fault {m m' : Session} {bytes : List Byte}
    (h : m.perform (.loadRom bytes) = some m') : m'.machine.fault = m.machine.fault := by
  simp only [Session.perform] at h
  split_ifs at h
  split at h
  next t hload => cases h; exact State.loadRom_fault hload
  next => cases h; rfl

/-- In a machine with a latched fault no action but reset changes the record (R208). -/
theorem Session.perform_fault_of_latched {m m' : Session} (h : m.machine.fault.kind ≠ none) {e : Event}
    (hperform : m.perform e = some m') (hreset : e ≠ .reset) : m'.machine.fault = m.machine.fault := by
  cases e with
  | execute =>
    cases hperform
    exact congrArg State.fault (State.afterExecute_of_latched h)
  | timerTick | release k => cases hperform; rfl
  | press k => cases hperform; exact m.machine.pressKey_fault k
  | reset => exact absurd rfl hreset
  | loadRom bytes => exact Session.perform_loadRom_fault hperform

/-- Settles O10: `execute` returns the record and keeps the state, no agent but the host's reset writes the record, and
a tick counts whatever the record is. -/
theorem aFaultIsStickyUntilReset : Obligations.AFaultIsStickyUntilReset := by
  intro m h
  refine ⟨step_of_latched h, fun m' hexecute => ?_, fun e m' => Session.perform_fault_of_latched h,
    fun m' htick => ?_, fun m' hreset => ?_⟩
  · cases hexecute
    exact State.afterExecute_of_latched h
  · cases htick
    exact ⟨countDown_toNat _, countDown_toNat _⟩
  · cases hreset
    rfl

/-! ### The timers -/

theorem State.timerTick_onlyChanges (s : State) : OnlyChanges [.dt, .st] s s.timerTick := fun p hp => by
  cases p <;> simp_all [Part.same]

theorem countDown_toNat_ite (b : Byte) : (countDown b).toNat = if 0 < b.toNat then b.toNat - 1 else 0 := by
  rw [countDown_toNat]
  split <;> omega

/-- An instruction, completing or not, keeps every part but the record that its rule does not name (R4). -/
theorem exec_same_of_notMem_writes {i : Instr} {s t : State} {p : Part} (hexec : exec i s = .next t)
    (hp : p ∉ i.writes) (hrecord : p ≠ .fault) : Part.same s t p := by
  obtain ⟨u, hu, ⟨k, w, rfl⟩ | hin⟩ := exec_raisesOrWithin i s
  · obtain rfl := Host.Outcome.next.inj (hexec.symm.trans hu)
    exact withFault_onlyChanges s k w p (by simpa using hrecord)
  · obtain rfl := Host.Outcome.next.inj (hexec.symm.trans hu)
    exact hin.parts p hp

theorem dt_notMem_writes {i : Instr} (h : ∀ x, i ≠ .ldDtVx x) : .dt ∉ i.writes := by
  cases i <;> simp_all [Instr.writes]

theorem st_notMem_writes {i : Instr} (h : ∀ x, i ≠ .ldStVx x) : .st ∉ i.writes := by
  cases i <;> simp_all [Instr.writes]

/-- Settles O24: the tick counts both timers down; of the instructions Fx15 alone names DT and Fx18 alone ST. -/
theorem onlyTheDriverCountsTheTimersDown : Obligations.OnlyTheDriverCountsTheTimersDown :=
  ⟨fun s => ⟨countDown_toNat_ite s.dt, countDown_toNat_ite s.st, s.timerTick_onlyChanges⟩,
    fun _ _ _ hexec =>
      ⟨fun hdt => exec_same_of_notMem_writes hexec (dt_notMem_writes hdt) (by decide),
        fun hst => exec_same_of_notMem_writes hexec (st_notMem_writes hst) (by decide)⟩⟩

end Sys2Proof.Machine

/-!
The ROM load (spec/70_reset_and_hazards.md R231). What the load answers by the length of the image, and what a session
makes of the answer.
-/

namespace Sys2Proof.Machine

/-! ### The load and its answer -/

section
variable {bytes : List Byte}

theorem State.loadRom_of_fits (s : State) (h : bytes.length ≤ 3584) :
    s.loadRom bytes = .loaded (s.writeBytes Config.programOrigin bytes) := if_pos h

theorem State.loadRom_of_tooLong (s : State) (h : 3584 < bytes.length) : s.loadRom bytes = .romTooLarge :=
  if_neg (Nat.not_le.mpr h)

/-- An image of at most 3584 bytes ends at or below the last address (R231). -/
theorem programOrigin_add_length_le (h : bytes.length ≤ 3584) :
    Config.programOrigin + bytes.length ≤ Config.memSize := Nat.add_le_add_left h Config.programOrigin

/-! ### The load as a move of a session -/

variable {m : Session}

theorem Session.perform_loadRom_of_loaded {t : State} (hloadable : m.loadable = true)
    (h : m.machine.loadRom bytes = .loaded t) : m.perform (.loadRom bytes) = some ⟨t, true⟩ := by
  rw [Session.perform, if_pos hloadable, h, ← hloadable]

theorem Session.perform_loadRom_of_romTooLarge (hloadable : m.loadable = true)
    (h : m.machine.loadRom bytes = .romTooLarge) : m.perform (.loadRom bytes) = some m := by
  rw [Session.perform, if_pos hloadable, h]

theorem Session.perform_loadRom_of_not_loadable (hloadable : m.loadable = false) :
    m.perform (.loadRom bytes) = none := if_neg (Bool.eq_false_iff.mp hloadable)

end

theorem Session.loadable_of_perform_execute {m m' : Session} (h : m.perform .execute = some m') :
    m'.loadable = false := by
  cases h
  rfl

theorem Session.loadable_of_perform_reset {m m' : Session} (h : m.perform .reset = some m') :
    m'.loadable = true := by
  cases h
  rfl

/-- Settles O23: a load that fits is one store of the image at 0x200, within memory; a longer one answers a refusal, and
the session takes either answer while the load is legal. -/
theorem romLoadCopiesTheImageOrRefusesIt : Obligations.RomLoadCopiesTheImageOrRefusesIt := by
  refine ⟨fun s bytes hm hfits => ?_, fun s _ => s.loadRom_of_tooLong, fun m bytes hloadable hfits => ?_,
    fun m _ hloadable hlong => Session.perform_loadRom_of_romTooLarge hloadable (m.machine.loadRom_of_tooLong hlong),
    fun _ _ => Session.perform_loadRom_of_not_loadable, fun _ _ => Session.loadable_of_perform_execute,
    fun _ _ => Session.loadable_of_perform_reset⟩
  · exact ⟨_, s.loadRom_of_fits hfits, Memory.wf_writeBytes hm _ bytes, s.writeBytes_onlyChanges _ bytes,
      State.readByte_writeBytes_inside hm _ bytes (programOrigin_add_length_le hfits),
      fun a => State.readByte_writeBytes_outside hm _ a bytes⟩
  · have hload := m.machine.loadRom_of_fits hfits
    exact ⟨_, hload, Session.perform_loadRom_of_loaded hloadable hload⟩

end Sys2Proof.Machine

/-!
The decoder against the encoder and against the opcode table (spec/30_encoding.md R81, R91, R95). A word and its
instruction determine each other; the rows of the table do not overlap, and every word a row covers decodes.
-/

namespace Sys2Proof

/-! ### Round trips -/

/-- A row count that fits its field is not reduced by it (R83). -/
theorem toNat_ofNat_rows {n : Nat} (hn : n ≤ 15) : (BitVec.ofNat 4 n).toNat = n :=
  (BitVec.toNat_ofNat n 4).trans (Nat.mod_eq_of_lt (by omega))

theorem decode_formatXYN_draw (x y : Reg) {n : Nat} (hn : n ≤ 15) :
    decode (formatXYN 0xD x y (BitVec.ofNat 4 n)) = .ok (.drwVxVyN x y n) := by
  simp [decode, toNat_ofNat_rows hn]

/-- The decoder gives back the instruction a word was encoded from: the format's tag selects the branch and its
secondary field, where it has one, the instruction. -/
theorem decode_encode {i : Instr} (hwf : i.wf = true) : decode (encode i) = .ok i := by
  cases i with
  | cls | ret => rfl
  | jpNnn _ | callNnn _ | ldINnn _ | jpV0Nnn _ | seVxNn _ _ | sneVxNn _ _ | ldVxNn _ _ | addVxNn _ _ | rndVxNn _ _
  | seVxVy _ _ | sneVxVy _ _ => simp [encode, decode]
  | ldVxVy _ _ | orVxVy _ _ | andVxVy _ _ | xorVxVy _ _ | addVxVy _ _ | subVxVy _ _ | shrVx _ _ | subnVxVy _ _
  | shlVx _ _ => simp [encode, decode, decodeTag8]
  | drwVxVyN x y n => exact decode_formatXYN_draw x y (of_decide_eq_true hwf)
  | skpVx _ | sknpVx _ => simp [encode, decode, decodeTagE]
  | ldVxDt _ | ldVxK _ | ldDtVx _ | ldStVx _ | addIVx _ | ldFVx _ | ldBVx _ | ldMemVx _ | ldVxMem _ =>
    simp [encode, decode, decodeTagF]

/-- A byte string that starts with an instruction's two bytes (R54, R80). -/
theorem decodeBytes_of_decode {hi lo : Byte} {i : Instr} (h : decode (wordOfBytes hi lo) = .ok i)
    (rest : List Byte) : decodeBytes (hi :: lo :: rest) = .ok (i, rest) := by
  simp [decodeBytes, h]

theorem decode_of_decodeBytes {hi lo : Byte} {i : Instr} {rest : List Byte}
    (h : decodeBytes (hi :: lo :: rest) = .ok (i, rest)) : decode (wordOfBytes hi lo) = .ok i := by
  cases hdec : decode (wordOfBytes hi lo) with
  | ok j => simpa [decodeBytes, hdec] using h
  | error e => simp [decodeBytes, hdec] at h

/-- Settles O2: the word by the decoder's branch for its tag, the two bytes by putting that word together again. -/
theorem decodeOfEncodeIsTheInstruction : Obligations.DecodeOfEncodeIsTheInstruction := fun i hwf =>
  ⟨decode_encode hwf,
    decodeBytes_of_decode ((wordOfBytes_high_low (encode i)).symm ▸ decode_encode hwf)⟩

/-- The row count of a decoded draw is a field of four bits; no other instruction has a check (R83). -/
theorem wf_of_decode {w : Word} {i : Instr} (h : decode w = .ok i) : i.wf = true := by
  cases i with
  | drwVxVyN x y n =>
    have hop : opField w = 0xD := encode_of_decode h ▸ opField_formatXYN _ _ x y
    have hdraw : decode w = .ok (.drwVxVyN (xField w) (yField w) (nField w).toNat) := by simp [decode, hop]
    obtain ⟨-, -, rfl⟩ : x = xField w ∧ y = yField w ∧ n = (nField w).toNat := by simpa [hdraw, eq_comm] using h
    exact decide_eq_true (Nat.le_of_lt_succ (nField w).isLt)
  | _ => rfl

/-- Settles O3: the encoder gives the word back, and the only operand with a check is a four-bit field. -/
theorem encodeOfDecodeIsTheWord : Obligations.EncodeOfDecodeIsTheWord := fun _ _ h =>
  ⟨wf_of_decode h, encode_of_decode h⟩

/-- Settles O1: the words are those of their instructions; the last two are none. -/
theorem wordsWrittenOutDecode : Obligations.WordsWrittenOutDecode := by
  unfold Obligations.WordsWrittenOutDecode
  decide

/-! ### The opcode table (R91, R95) -/

/-- Every instruction's word is of the row that carries its mnemonic (R95). -/
theorem encode_tableRow (i : Instr) : Laws.TableRow.Statement i := by
  cases i with
  | cls => exact Laws.TableRow.cls
  | ret => exact Laws.TableRow.ret
  | jpNnn nnn => exact Laws.TableRow.jpNnn nnn
  | callNnn nnn => exact Laws.TableRow.callNnn nnn
  | seVxNn x nn => exact Laws.TableRow.seVxNn x nn
  | sneVxNn x nn => exact Laws.TableRow.sneVxNn x nn
  | seVxVy x y => exact Laws.TableRow.seVxVy x y
  | ldVxNn x nn => exact Laws.TableRow.ldVxNn x nn
  | addVxNn x nn => exact Laws.TableRow.addVxNn x nn
  | ldVxVy x y => exact Laws.TableRow.ldVxVy x y
  | orVxVy x y => exact Laws.TableRow.orVxVy x y
  | andVxVy x y => exact Laws.TableRow.andVxVy x y
  | xorVxVy x y => exact Laws.TableRow.xorVxVy x y
  | addVxVy x y => exact Laws.TableRow.addVxVy x y
  | subVxVy x y => exact Laws.TableRow.subVxVy x y
  | shrVx x y => exact Laws.TableRow.shrVx x y
  | subnVxVy x y => exact Laws.TableRow.subnVxVy x y
  | shlVx x y => exact Laws.TableRow.shlVx x y
  | sneVxVy x y => exact Laws.TableRow.sneVxVy x y
  | ldINnn nnn => exact Laws.TableRow.ldINnn nnn
  | jpV0Nnn nnn => exact Laws.TableRow.jpV0Nnn nnn
  | rndVxNn x nn => exact Laws.TableRow.rndVxNn x nn
  | drwVxVyN x y n => exact Laws.TableRow.drwVxVyN x y n
  | skpVx x => exact Laws.TableRow.skpVx x
  | sknpVx x => exact Laws.TableRow.sknpVx x
  | ldVxDt x => exact Laws.TableRow.ldVxDt x
  | ldVxK x => exact Laws.TableRow.ldVxK x
  | ldDtVx x => exact Laws.TableRow.ldDtVx x
  | ldStVx x => exact Laws.TableRow.ldStVx x
  | addIVx x => exact Laws.TableRow.addIVx x
  | ldFVx x => exact Laws.TableRow.ldFVx x
  | ldBVx x => exact Laws.TableRow.ldBVx x
  | ldMemVx x => exact Laws.TableRow.ldMemVx x
  | ldVxMem x => exact Laws.TableRow.ldVxMem x

/-- No two rows overlap: two patterns that agree where both masks look are of one mnemonic. -/
theorem opcodeTable_disjoint : ∀ r ∈ opcodeTable, ∀ r' ∈ opcodeTable,
    r.pattern &&& r'.mask = r'.pattern &&& r.mask → r.mnemonic = r'.mnemonic := by
  decide

theorem mnemonic_eq_of_covers {r r' : OpcodeRow} (hr : r ∈ opcodeTable) (hr' : r' ∈ opcodeTable) {w : Word}
    (hc : r.covers w = true) (hc' : r'.covers w = true) : r.mnemonic = r'.mnemonic := by
  have hw : w &&& r.mask = r.pattern := beq_iff_eq.mp hc
  have hw' : w &&& r'.mask = r'.pattern := beq_iff_eq.mp hc'
  refine opcodeTable_disjoint r hr r' hr' ?_
  rw [← hw, ← hw', BitVec.and_assoc, BitVec.and_comm r.mask, BitVec.and_assoc]

/-- Whether a word decodes is decided by its tag and, under a tag that has one, its secondary field (R85 to R90). -/
theorem decode_isOk_congr {w p : Word} (hop : opField w = opField p)
    (hnnn : opField p = 0x0 → nnnField w = nnnField p) (hn : opField p ∈ [0x5, 0x8, 0x9] → nField w = nField p)
    (hnn : opField p ∈ [0xE, 0xF] → nnField w = nnField p) : (decode w).isOk = (decode p).isOk := by
  unfold decode
  rw [hop]
  split
  case h_1 h =>
    rw [decodeTag0, decodeTag0, hnnn h]
    split_ifs <;> rfl
  case h_6 h | h_10 h =>
    rw [hn (by simp [h])]
    split_ifs <;> rfl
  case h_9 h =>
    rw [decodeTag8, decodeTag8, hn (by simp [h])]
    split <;> rfl
  case h_15 h =>
    rw [decodeTagE, decodeTagE, hnn (by simp [h])]
    split <;> rfl
  case h_16 =>
    have hF : opField p = 0xF := by
      clear hop hnnn hn hnn
      generalize opField p = op at *
      revert op
      decide
    rw [decodeTagF, decodeTagF, hnn (by simp [hF])]
    split <;> rfl
  all_goals rfl

/-- Each row fixes the tag and, under a tag that has one, the secondary field, and its pattern decodes. -/
theorem opcodeTable_fixes_selectors : ∀ r ∈ opcodeTable,
    opField r.mask = 0xF ∧ (opField r.pattern = 0x0 → nnnField r.mask = 0xFFF) ∧
      (opField r.pattern ∈ [0x5, 0x8, 0x9] → nField r.mask = 0xF) ∧
      (opField r.pattern ∈ [0xE, 0xF] → nnField r.mask = 0xFF) ∧ (decode r.pattern).isOk = true := by
  decide

/-- A word that a row covers has the row's fields wherever the mask keeps the whole field. -/
theorem extractLsb'_of_covers {r : OpcodeRow} {w : Word} (hc : r.covers w = true) {start len : Nat}
    (hm : r.mask.extractLsb' start len = BitVec.allOnes len) :
    w.extractLsb' start len = r.pattern.extractLsb' start len := by
  rw [← beq_iff_eq.mp hc, BitVec.extractLsb'_and, hm, BitVec.and_allOnes]

/-- A word that a row of the table covers decodes, as the row's pattern does. -/
theorem decodes_of_covers {r : OpcodeRow} (hr : r ∈ opcodeTable) {w : Word} (hc : r.covers w = true) :
    ∃ i, decode w = .ok i := by
  obtain ⟨hop, hnnn, hn, hnn, hpattern⟩ := opcodeTable_fixes_selectors r hr
  have hok : (decode w).isOk = true := by
    rw [← hpattern]
    exact decode_isOk_congr (extractLsb'_of_covers hc hop) (fun h => extractLsb'_of_covers hc (hnnn h))
      (fun h => extractLsb'_of_covers hc (hn h)) (fun h => extractLsb'_of_covers hc (hnn h))
  cases hdec : decode w with
  | ok i => exact ⟨i, rfl⟩
  | error e => simp [hdec, Except.isOk, Except.toBool] at hok

/-- Settles O5: an instruction's word is of the row of its mnemonic, a word that a row covers decodes, and rows that
share a word share their mnemonic. -/
theorem decoderAgreesWithTheOpcodeTable : Obligations.DecoderAgreesWithTheOpcodeTable := by
  intro w
  have hrow {i : Instr} (h : decode w = .ok i) : ∃ r ∈ opcodeTable, r.mnemonic = i.mnemonic ∧ r.covers w = true :=
    encode_of_decode h ▸ encode_tableRow i
  refine ⟨⟨fun ⟨i, h⟩ => ?_, fun ⟨r, hr, hc⟩ => decodes_of_covers hr hc⟩, fun i h r hr hc => ?_⟩
  · obtain ⟨r, hr, -, hc⟩ := hrow h
    exact ⟨r, hr, hc⟩
  · obtain ⟨r', hr', hmnemonic, hc'⟩ := hrow h
    exact (mnemonic_eq_of_covers hr hr' hc hc').trans hmnemonic

end Sys2Proof

/-!
What no step observes (spec/10_state.md R26, R27; spec/00_scope.md R2): the cells of the stack and the timers. An
instruction that names none of them commutes with every change of them, so two runs that differ only there stay
together.
-/

namespace Sys2Proof.Machine

/-! ### A change of the state and an outcome -/

/-- The same outcome, the change made to its next state. -/
def mapNext (f : State → State) : Result → Result
  | .next t => .next (f t)
  | .fault r => .fault r
  | .refused r => .refused r

/-- A change that no check looks at and the record is no part of passes a checked meaning. -/
theorem mapNext_guarded {f : State → State} {c : Prop} [Decidable c] {t : c → State} {k : FaultKind} {w : Word}
    {s : State} (hf : f (s.withFault k w) = (f s).withFault k w) :
    mapNext f (if hc : c then .next (t hc) else raise k w s) =
      if hc : c then .next (f (t hc)) else raise k w (f s) := by
  split
  next => rfl
  next => exact congrArg Host.Outcome.next hf

/-- The stack cells and the timers changed. -/
def State.mapHidden (cells : Vector Word 16 → Vector Word 16) (d e : Byte → Byte) (s : State) : State :=
  { s with stack := cells s.stack, dt := d s.dt, st := e s.st }

/-- The timers changed. -/
def State.mapTimers (d e : Byte → Byte) (s : State) : State := { s with dt := d s.dt, st := e s.st }

/-- Other stack cells. -/
def State.setStack (s : State) (cells : Vector Word 16) : State := { s with stack := cells }

theorem State.mapHidden_skipIf (cells : Vector Word 16 → Vector Word 16) (d e : Byte → Byte) (s : State)
    (c : Bool) : (s.mapHidden cells d e).skipIf c = (s.skipIf c).mapHidden cells d e := by
  cases c <;> rfl

section
variable {cells : Vector Word 16 → Vector Word 16} {d e : Byte → Byte} {s : State}

/-- A key skip looks at a register and the level of the key it names (R178, R179). -/
theorem keyChecked_mapHidden {x : Reg} {w : Word} {skips : State → Key → Bool} {meaning : State → Result}
    (hkey : ∀ s k, keyNumber (s.getV x) = some k → meaning s = .next (s.skipIf (skips s k)))
    (hnone : ∀ s, keyNumber (s.getV x) = none → meaning s = .next (s.withFault .keyIndexOutOfRange w))
    (hskips : ∀ k, skips (s.mapHidden cells d e) k = skips s k) :
    meaning (s.mapHidden cells d e) = mapNext (State.mapHidden cells d e) (meaning s) := by
  cases h : keyNumber (s.getV x) with
  | none =>
    rw [hnone s h, hnone (s.mapHidden cells d e) h]
    rfl
  | some k =>
    rw [hkey s k h, hkey (s.mapHidden cells d e) k h, hskips, State.mapHidden_skipIf]
    rfl

theorem execLdVxK_mapHidden (x : Reg) :
    execLdVxK x (s.mapHidden cells d e) = mapNext (State.mapHidden cells d e) (execLdVxK x s) := by
  cases h : s.keyLatch with
  | none =>
    rw [execLdVxK_of_none x h, execLdVxK_of_none x (s := s.mapHidden cells d e) h]
    rfl
  | some k =>
    rw [execLdVxK_of_some x h, execLdVxK_of_some x (s := s.mapHidden cells d e) h]
    rfl

/-- An instruction that names neither the stack nor a timer commutes with any change of them. -/
theorem exec_mapHidden {i : Instr} (hret : i ≠ .ret) (hcall : ∀ nnn, i ≠ .callNnn nnn)
    (htimer : ∀ x, i ≠ .ldVxDt x ∧ i ≠ .ldDtVx x ∧ i ≠ .ldStVx x) :
    exec i (s.mapHidden cells d e) = mapNext (State.mapHidden cells d e) (exec i s) := by
  cases i with
  | ret => exact absurd rfl hret
  | callNnn nnn => exact absurd rfl (hcall nnn)
  | ldVxDt x => exact absurd rfl (htimer x).1
  | ldDtVx x => exact absurd rfl (htimer x).2.1
  | ldStVx x => exact absurd rfl (htimer x).2.2
  | drwVxVyN _ _ _ | ldBVx _ | ldMemVx _ | ldVxMem _ => exact .symm (mapNext_guarded rfl)
  | skpVx x =>
    exact keyChecked_mapHidden (fun _ _ => execSkp_of_key x) (fun _ => execSkp_of_none x) fun _ => rfl
  | sknpVx x =>
    exact keyChecked_mapHidden (skips := fun s k => !s.keyPressed k) (fun _ _ => execSknp_of_key x)
      (fun _ => execSknp_of_none x) fun _ => rfl
  | ldVxK x => exact execLdVxK_mapHidden x
  | seVxNn _ _ | sneVxNn _ _ | seVxVy _ _ | sneVxVy _ _ =>
    exact congrArg Host.Outcome.next (State.mapHidden_skipIf _ _ _ _ _)
  | cls | jpNnn _ | jpV0Nnn _ | ldVxNn _ _ | addVxNn _ _ | ldVxVy _ _ | orVxVy _ _ | andVxVy _ _ | xorVxVy _ _
  | addVxVy _ _ | subVxVy _ _ | shrVx _ _ | subnVxVy _ _ | shlVx _ _ | ldINnn _ | rndVxNn _ _ | addIVx _
  | ldFVx _ => rfl

/-- Call and return look at the stack, but at no timer. -/
theorem exec_mapTimers {i : Instr} (htimer : ∀ x, i ≠ .ldVxDt x ∧ i ≠ .ldDtVx x ∧ i ≠ .ldStVx x) :
    exec i (s.mapTimers d e) = mapNext (State.mapTimers d e) (exec i s) := by
  cases i with
  | ret | callNnn _ => exact .symm (mapNext_guarded rfl)
  | _ => exact exec_mapHidden (cells := id) nofun nofun htimer

/-- The timer instructions look at a timer, but at no stack cell. -/
theorem exec_setStack {i : Instr} (hret : i ≠ .ret) (hcall : ∀ nnn, i ≠ .callNnn nnn) (cells : Vector Word 16) :
    exec i (s.setStack cells) = mapNext (·.setStack cells) (exec i s) := by
  cases i with
  | ldVxDt _ | ldDtVx _ | ldStVx _ => rfl
  | _ =>
    exact exec_mapHidden (cells := fun _ => cells) (d := id) (e := id) hret hcall fun _ => ⟨nofun, nofun, nofun⟩

end

/-- Settles O16: a tick is a change of the timers. -/
theorem ticksCommuteWithInstructionsThatNameNoTimer : Obligations.TicksCommuteWithInstructionsThatNameNoTimer := by
  intro i s t hexec htimer
  have htick := exec_mapTimers (s := s) (d := countDown) (e := countDown) htimer
  rw [hexec] at htick
  exact htick

/-! ### Two steps side by side -/

/-- Steps of two states with the same record, `pc` and memory: both raise the same fault at once, or both run the same
instruction (R84). -/
theorem step_alike {s s' t : State} (hfault : s'.fault = s.fault) (hpc : s'.pc = s.pc) (hmem : s'.mem = s.mem)
    (hstep : step s = .next t) :
    (∃ k w, t = s.withFault k w ∧ step s' = .next (s'.withFault k w)) ∨
      ∃ i, exec i s = .next t ∧ step s' = exec i s' := by
  obtain ⟨hfaulted, hcase⟩ := step_cases hstep
  have hclear : s'.fault.kind = none := by
    rw [hfault]
    exact Option.isNone_iff_eq_none.mp (by simpa [State.faulted] using hfaulted)
  have hword : s'.fetchWord = s.fetchWord := by
    simp only [State.fetchWord, State.readByte, hpc, hmem]
  rcases hcase with ⟨hout, rfl⟩ | ⟨hin, i, hdec, hexec⟩ | ⟨hin, e, hdec, rfl⟩
  · refine .inl ⟨_, _, rfl, step_of_unfetchable hclear ?_⟩
    rw [hpc]
    have := mt (State.fetchable_iff (s := s)).mpr (by simp [hout])
    omega
  · exact .inr ⟨i, hexec, step_of_decode hclear (hpc ▸ State.fetchable_iff.mp hin) (hword ▸ hdec)⟩
  · refine .inl ⟨_, _, rfl, ?_⟩
    rw [← hword]
    exact step_of_undefined hclear (hpc ▸ State.fetchable_iff.mp hin) (hword ▸ hdec)

theorem OnlyChanges.refl (l : List Part) (s : State) : OnlyChanges l s s := fun p _ => by
  cases p <;> simp [Part.same]

/-- An instruction with another sound timer leaves the same but for the sound timer; after Fx18 that is the same too. -/
theorem exec_setSt {i : Instr} {s t : State} (hexec : exec i s = .next t) (b : Byte) :
    ∃ u, exec i (s.setSt b) = .next u ∧ OnlyChanges [.st] t u := by
  have hkept (h : exec i (s.setSt b) = mapNext (·.setSt b) (exec i s)) :
      ∃ u, exec i (s.setSt b) = .next u ∧ OnlyChanges [.st] t u :=
    ⟨t.setSt b, by rw [h, hexec]; rfl, t.setSt_onlyChanges b⟩
  cases i with
  | ldStVx x => exact ⟨t, hexec, .refl _ t⟩
  | ldVxDt _ | ldDtVx _ => exact hkept rfl
  | _ => exact hkept (exec_mapTimers (d := id) (e := fun _ => b) fun _ => ⟨nofun, nofun, nofun⟩)

/-- Settles O14: no fetch looks at ST, and no instruction. -/
theorem theSoundTimerIsNeverObserved : Obligations.TheSoundTimerIsNeverObserved := by
  intro s t b hstep
  rcases step_alike (s := s) (s' := s.setSt b) rfl rfl rfl hstep with ⟨k, w, rfl, hstep'⟩ | ⟨i, hexec, hstep'⟩
  · exact ⟨_, hstep', (s.withFault k w).setSt_onlyChanges b⟩
  · rw [hstep']
    exact exec_setSt hexec b

/-! ### Dead stack cells (R26) -/

/-- The second state has the first one's live stack cells, and everything else of it but the dead ones. -/
def SameButDeadCells (t u : State) : Prop :=
  OnlyChanges [.stack] t u ∧ ∀ k : Fin 16, k.val < t.sp.val → u.cell k = t.cell k

theorem State.setStack_onlyChanges (s : State) (cells : Vector Word 16) :
    OnlyChanges [.stack] s (s.setStack cells) := fun p hp => by
  cases p with
  | stack => exact absurd (List.mem_singleton.mpr rfl) hp
  | fb => exact fun _ _ => rfl
  | v | mem | keys => exact fun _ => rfl
  | i | pc | sp | dt | st | await | fault | keyLatch | draws => rfl

theorem stack_sp_notMem_writes {i : Instr} (hret : i ≠ .ret) (hcall : ∀ nnn, i ≠ .callNnn nnn) :
    .stack ∉ i.writes ∧ .sp ∉ i.writes := by
  cases i <;> simp_all [Instr.writes]

section
variable {s : State} {cells : Vector Word 16} (hlive : ∀ k : Fin 16, k.val < s.sp.val → cells[k.val] = s.cell k)
include hlive

theorem sameButDeadCells_setStack : SameButDeadCells s (s.setStack cells) :=
  ⟨s.setStack_onlyChanges cells, hlive⟩

/-- A return reads the topmost live cell. -/
theorem sameButDeadCells_popToPc (h : 0 < s.sp.val) :
    SameButDeadCells (s.popToPc h) ((s.setStack cells).popToPc h) := by
  have hpc : ((s.setStack cells).popToPc h).pc = (s.popToPc h).pc := hlive _ (Nat.sub_one_lt_of_lt h)
  have hstack : (s.setStack cells).popToPc h = (s.popToPc h).setStack cells :=
    congrArg (((s.popToPc h).setStack cells).setPc) hpc
  rw [hstack]
  exact sameButDeadCells_setStack fun k hk => hlive k (Nat.lt_of_lt_of_le hk (Nat.sub_le _ _))

/-- A call makes the cell at SP live, and writes it first. -/
theorem sameButDeadCells_push_setPc (w target : Word) (h : s.sp.val < 16) :
    SameButDeadCells ((s.push w h).setPc target) (((s.setStack cells).push w h).setPc target) := by
  refine sameButDeadCells_setStack (s := (s.push w h).setPc target) (cells := cells.set s.sp.val w) fun k hk => ?_
  have hlt : k.val < s.sp.val + 1 := hk
  rw [State.setPc_cell, State.cell_push, Vector.getElem_set]
  split
  next heq => rw [if_pos heq.symm]
  next hne => rw [if_neg (Ne.symm hne), hlive k (by omega)]

/-- An instruction that names no stack leaves the stack of each run as it was. -/
theorem exec_setStack_of_notStack {i : Instr} {t : State} (hret : i ≠ .ret) (hcall : ∀ nnn, i ≠ .callNnn nnn)
    (hexec : exec i s = .next t) : ∃ u, exec i (s.setStack cells) = .next u ∧ SameButDeadCells t u := by
  obtain ⟨hstack, hsp⟩ := stack_sp_notMem_writes hret hcall
  have hcells : ∀ k, t.cell k = s.cell k := exec_same_of_notMem_writes hexec hstack nofun
  have hdepth : t.sp = s.sp := exec_same_of_notMem_writes hexec hsp nofun
  refine ⟨t.setStack cells, ?_, sameButDeadCells_setStack fun k hk => ?_⟩
  · rw [exec_setStack hret hcall, hexec]
    rfl
  · rw [hcells, hlive k (hdepth ▸ hk)]

/-- Every instruction takes states that differ in dead cells to states that differ in dead cells. -/
theorem exec_setStack_sameButDeadCells {i : Instr} {t : State} (hexec : exec i s = .next t) :
    ∃ u, exec i (s.setStack cells) = .next u ∧ SameButDeadCells t u := by
  cases i with
  | ret =>
    by_cases h : 0 < s.sp.val
    · obtain rfl := Host.Outcome.next.inj ((execRet_of_pos h).symm.trans hexec)
      exact ⟨_, execRet_of_pos (s := s.setStack cells) h, sameButDeadCells_popToPc hlive h⟩
    · have hempty : s.sp.val = 0 := by omega
      obtain rfl := Host.Outcome.next.inj ((execRet_of_empty hempty).symm.trans hexec)
      exact ⟨_, execRet_of_empty (s := s.setStack cells) hempty,
        sameButDeadCells_setStack (s := s.withFault _ _) hlive⟩
  | callNnn nnn =>
    by_cases h : s.sp.val < 16
    · obtain rfl := Host.Outcome.next.inj ((execCall_of_lt nnn h).symm.trans hexec)
      exact ⟨_, execCall_of_lt (s := s.setStack cells) nnn h, sameButDeadCells_push_setPc hlive _ _ h⟩
    · have hfull : s.sp.val = 16 := by omega
      obtain rfl := Host.Outcome.next.inj ((execCall_of_full nnn hfull).symm.trans hexec)
      exact ⟨_, execCall_of_full (s := s.setStack cells) nnn hfull,
        sameButDeadCells_setStack (s := s.withFault _ _) hlive⟩
  | _ => exact exec_setStack_of_notStack hlive nofun nofun hexec

end

/-- Settles O15: no fetch looks at the stack, and of the instructions return looks at a live cell and call at none. -/
theorem deadStackCellsAreNeverObserved : Obligations.DeadStackCellsAreNeverObserved := by
  intro s t cells hlive hstep
  rcases step_alike (s := s) (s' := s.setStack cells) rfl rfl rfl hstep with
    ⟨k, w, rfl, hstep'⟩ | ⟨i, hexec, hstep'⟩
  · exact ⟨_, hstep', sameButDeadCells_setStack (s := s.withFault k w) hlive⟩
  · exact hstep' ▸ exec_setStack_sameButDeadCells hlive hexec

end Sys2Proof.Machine

/-!
The invariants (spec/10_state.md R24, R28, R35). A step keeps each part of the machine's invariant: memory is written by
stores only, `pc` and the stack cells are bounded by the fetch and by what jumps, calls and returns can reach, and a
record is clear or that of the fault just raised. Of the actions of the other agents each writes few of these parts.
-/

namespace Sys2Proof.Machine

/-! ### Canonical memory (log entry 6) -/

/-- Taking a canonical memory apart at its first entry. -/
theorem Memory.wf_cons_iff {a : Nat} {b : Byte} {m : Memory} :
    Memory.wf ((a, b) :: m) = true ↔
      a < Config.memSize ∧ b ≠ resetByte a ∧ Memory.above a m = true ∧ Memory.wf m = true := by
  simp [Memory.wf, and_assoc]

theorem Memory.read_cons_self (a : Nat) (b : Byte) (m : Memory) : Memory.read ((a, b) :: m) a = b := if_pos rfl

/-- The first entry of a canonical memory is read as written in no memory that starts above it. -/
theorem Memory.read_ne_of_above {a : Nat} {b : Byte} {m m' : Memory} (hm : Memory.wf ((a, b) :: m) = true)
    (habove : Memory.above a m' = true) : Memory.read ((a, b) :: m) a ≠ Memory.read m' a := by
  obtain ⟨-, hb, -, -⟩ := Memory.wf_cons_iff.mp hm
  rw [Memory.read_cons_self, Memory.read_of_above habove (Nat.le_refl a)]
  exact hb

/-- The first entry lies above every address below it, and so does what follows. -/
theorem Memory.above_of_lt {a c : Nat} {b : Byte} {m : Memory} (hm : Memory.wf ((a, b) :: m) = true) (h : c < a) :
    Memory.above c ((a, b) :: m) = true := by
  obtain ⟨-, -, habove, -⟩ := Memory.wf_cons_iff.mp hm
  simp [Memory.above, h, Memory.above_of_le (Nat.le_of_lt h) habove]

/-- Memories with one address first are read alike behind it when they are read alike. -/
theorem Memory.read_eq_of_cons {a : Nat} {b b' : Byte} {m m' : Memory} (hm : Memory.above a m = true)
    (hm' : Memory.above a m' = true)
    (h : ∀ x, Memory.read ((a, b) :: m) x = Memory.read ((a, b') :: m') x) (x : Nat) :
    Memory.read m x = Memory.read m' x := by
  by_cases hx : x = a
  · rw [hx, Memory.read_of_above hm (Nat.le_refl a), Memory.read_of_above hm' (Nat.le_refl a)]
  · simpa [Memory.read, hx] using h x

/-- Settles O20, by induction on both lists: their first addresses are the same, since the smaller one would be read
as written in one memory and as after reset in the other. -/
theorem memoriesThatReadAlikeAreEqual : Obligations.MemoriesThatReadAlikeAreEqual := by
  intro m
  induction m with
  | nil =>
    intro m' _ hm' h
    cases m' with
    | nil => rfl
    | cons e' m' => exact absurd (h e'.1).symm (Memory.read_ne_of_above hm' rfl)
  | cons e m ih =>
    intro m' hm hm' h
    cases m' with
    | nil => exact absurd (h e.1) (Memory.read_ne_of_above hm rfl)
    | cons e' m' =>
      obtain ⟨a, b⟩ := e
      obtain ⟨a', b'⟩ := e'
      rcases Nat.lt_trichotomy a a' with hlt | rfl | hgt
      · exact absurd (h a) (Memory.read_ne_of_above hm (Memory.above_of_lt hm' hlt))
      · obtain ⟨-, -, habove, hwf⟩ := Memory.wf_cons_iff.mp hm
        obtain ⟨-, -, habove', hwf'⟩ := Memory.wf_cons_iff.mp hm'
        obtain rfl : b = b' := by simpa only [Memory.read_cons_self] using h a
        rw [ih m' hwf hwf' (Memory.read_eq_of_cons habove habove' h)]
      · exact absurd (h a').symm (Memory.read_ne_of_above hm' (Memory.above_of_lt hm hgt))

/-- A result whose next state has canonical memory. -/
def CanonicalNext (r : Result) : Prop := ∀ t, r = .next t → Memory.wf t.mem = true

section
variable {s : State} (hm : Memory.wf s.mem = true)
include hm

omit hm in
theorem CanonicalNext.next {t : State} (ht : Memory.wf t.mem = true) : CanonicalNext (.next t) := fun _ hnext =>
  Host.Outcome.next.inj hnext ▸ ht

/-- A check before any write (R52, R202, R203). -/
theorem CanonicalNext.guarded {c : Prop} [Decidable c] {t : c → State} {k : FaultKind} {w : Word}
    (ht : ∀ hc, Memory.wf (t hc).mem = true) :
    CanonicalNext (if hc : c then .next (t hc) else raise k w s) := by
  split
  next hc => exact .next (ht hc)
  next => exact .next (t := s.withFault k w) hm

theorem CanonicalNext.skipIf (c : Bool) : CanonicalNext (.next (s.skipIf c)) :=
  .next ((s.skipIf_mem c).symm ▸ hm)

/-- A key skip's check that the register names a key (R178, R179). -/
theorem CanonicalNext.keyChecked {x : Reg} {w : Word} {r : Result}
    (hkey : ∀ k, keyNumber (s.getV x) = some k → ∃ c, r = .next (s.skipIf c))
    (hnone : keyNumber (s.getV x) = none → r = .next (s.withFault .keyIndexOutOfRange w)) : CanonicalNext r := by
  cases h : keyNumber (s.getV x) with
  | none => exact hnone h ▸ .next hm
  | some k =>
    obtain ⟨c, rfl⟩ := hkey k h
    exact .skipIf hm c

theorem execLdVxK_canonicalNext (x : Reg) : CanonicalNext (execLdVxK x s) := by
  cases h : s.keyLatch with
  | none => exact execLdVxK_of_none x h ▸ .next hm
  | some k => exact execLdVxK_of_some x h ▸ .next hm

/-- Fx33 and Fx55 store bytes, and a store keeps the canonical form; no other instruction writes memory (R56). -/
theorem exec_canonicalNext (i : Instr) : CanonicalNext (exec i s) := by
  cases i with
  | ldBVx _ | ldMemVx _ => exact .guarded hm fun _ => Memory.wf_writeBytes hm _ _
  | ret | callNnn _ | drwVxVyN _ _ _ | ldVxMem _ => exact .guarded hm fun _ => hm
  | skpVx x => exact .keyChecked hm (fun _ h => ⟨_, execSkp_of_key x h⟩) (execSkp_of_none x)
  | sknpVx x => exact .keyChecked hm (fun _ h => ⟨_, execSknp_of_key x h⟩) (execSknp_of_none x)
  | ldVxK x => exact execLdVxK_canonicalNext hm x
  | seVxNn _ _ | sneVxNn _ _ | seVxVy _ _ | sneVxVy _ _ => exact .skipIf hm _
  | cls | jpNnn _ | jpV0Nnn _ | ldVxNn _ _ | addVxNn _ _ | ldVxVy _ _ | orVxVy _ _ | andVxVy _ _ | xorVxVy _ _
  | addVxVy _ _ | subVxVy _ _ | shrVx _ _ | subnVxVy _ _ | shlVx _ _ | ldINnn _ | rndVxNn _ _ | ldVxDt _
  | ldDtVx _ | ldStVx _ | addIVx _ | ldFVx _ => exact .next hm

end

/-! ### Bounds of `pc` and of the stack cells (R24) -/

section
variable {i : Instr} {s t : State} (hbound : s.pcBounded) (hfetch : s.pc.toNat + 1 ≤ 0xFFF)
  (hclear : s.fault.kind = none) (hexec : exec i s = .next t) (hdone : t.fault.kind = none)

include hfetch in
/-- Behind an instruction that was fetched, or behind the one after it. -/
theorem toNat_pc_le_of_advance_or_skip (hpc : t.pc = s.pc + 4 ∨ t.pc = s.pc + 2) : t.pc.toNat ≤ 0x10FE := by
  rcases hpc with hpc | hpc
  · rw [hpc, toNat_add_four (by omega)]
    omega
  · rw [hpc, toNat_add_two (by omega)]
    omega

include hbound hfetch hclear hexec hdone

/-- Where an instruction that completes leaves `pc`: at or behind it, at a 12-bit address with or without a byte added,
or at a return address. -/
theorem exec_toNat_pc_le : t.pc.toNat ≤ 0x10FE := by
  obtain ⟨-, hcells⟩ := hbound
  have hpc := thePcAdvancesByTwoUnlessTheOperationSetsIt i s t hclear hexec hdone
  have hnext := toNat_pc_le_of_advance_or_skip (t := t) hfetch
  cases i with
  | ret =>
    obtain ⟨k, -, hk⟩ := hpc
    exact hk ▸ (hcells k).trans (by decide)
  | jpNnn nnn | callNnn nnn =>
    have : t.pc.toNat = nnn.toNat := hpc
    omega
  | jpV0Nnn nnn =>
    have : t.pc.toNat = nnn.toNat + (s.getV 0).toNat := hpc
    omega
  | seVxNn _ _ | sneVxNn _ _ | seVxVy _ _ | sneVxVy _ _ | skpVx _ | sknpVx _ => exact hnext hpc
  | ldVxK _ =>
    simp only at hpc
    split at hpc
    · rw [hpc]; omega
    · exact hnext (.inr hpc)
  | _ => exact hnext (.inr hpc)

/-- A call that completes writes the address behind it to one cell; no other instruction writes one. -/
theorem exec_toNat_cell_le (k : Fin 16) : (t.cell k).toNat ≤ 0x1000 := by
  by_cases hk : writesCell s k i
  · cases i with
    | callNnn nnn =>
      have hsp : k.val = s.sp.val := hk
      have hroom : s.sp.val < 16 := hsp ▸ k.isLt
      obtain ⟨u, hu, hcells, -⟩ := (callPushesTheReturnAddressOrOverflows nnn s).2.1 hroom
      obtain rfl := Host.Outcome.next.inj (hexec.symm.trans hu)
      rw [hcells k, if_pos hsp, toNat_add_two (by omega)]
      omega
    | _ => exact hk.elim
  · obtain ⟨-, -, hkept, -⟩ := (anInstructionChangesOnlyWhatItsRuleNames i s t hclear hexec).1 hdone
    obtain ⟨-, hcells⟩ := hbound
    exact hkept k hk ▸ hcells k

end

/-! ### The machine's invariant -/

/-- Raising a fault keeps the invariant: the record it writes addresses the faulting instruction (R206). -/
theorem State.Inv.withFault {s : State} (h : s.Inv) (k : FaultKind) (w : Word) : (s.withFault k w).Inv := by
  obtain ⟨hm, hbound, -⟩ := h
  exact ⟨hm, hbound, fun hnone => by simp at hnone, fun _ => rfl⟩

theorem State.fault_kind_eq_none {s : State} (h : s.faulted = false) : s.fault.kind = none := by
  simpa [State.faulted] using h

/-- An instruction that was fetched keeps the invariant, whether it raises a fault or completes. -/
theorem exec_inv {i : Instr} {s t : State} (h : s.Inv) (hclear : s.fault.kind = none)
    (hfetch : s.pc.toNat + 1 ≤ 0xFFF) (hexec : exec i s = .next t) : t.Inv := by
  obtain ⟨hm, hbound, hrecord⟩ := h
  rcases (hexec ▸ exec_takesFault i s).of_next with ⟨k, -, rfl⟩ | ⟨-, hkept⟩
  · exact State.Inv.withFault ⟨hm, hbound, hrecord⟩ k _
  · have hdone : t.fault.kind = none := hkept ▸ hclear
    exact ⟨exec_canonicalNext hm i t hexec,
      ⟨exec_toNat_pc_le hbound hfetch hclear hexec hdone, exec_toNat_cell_le hbound hfetch hclear hexec hdone⟩,
      fun _ => hkept ▸ hrecord.1 hclear, fun hset => absurd hdone hset⟩

/-- Settles O17: a step raises a fault or runs an instruction that was fetched. -/
theorem everyStepKeepsTheInvariant : Obligations.EveryStepKeepsTheInvariant := by
  intro s t h hstep
  obtain ⟨hfaulted, ⟨-, rfl⟩ | ⟨hfetch, i, -, hexec⟩ | ⟨-, e, -, rfl⟩⟩ := step_cases hstep
  · exact h.withFault _ _
  · exact exec_inv h (State.fault_kind_eq_none hfaulted) (State.fetchable_iff.mp hfetch) hexec
  · exact h.withFault _ _

/-! ### Waiting for a key (R28) -/

theorem await_notMem_writes {i : Instr} (h : ∀ x, i ≠ .ldVxK x) : .await ∉ i.writes := by
  cases i <;> simp_all [Instr.writes]

/-- A poll leaves AWAIT at 1 only where it stays at its own address and changes nothing but AWAIT (R181). -/
theorem execLdVxK_awaits {x : Reg} {s t : State} (hexec : execLdVxK x s = .next t) (hawait : t.await = true) :
    t = s.setAwait true := by
  cases h : s.keyLatch with
  | none =>
    rw [execLdVxK_of_none x h, State.afterKeyEvent_of_none h] at hexec
    exact (Host.Outcome.next.inj hexec).symm
  | some k =>
    rw [execLdVxK_of_some x h] at hexec
    obtain rfl := Host.Outcome.next.inj hexec
    cases hawait

/-- After a step AWAIT is 1 only at an Fx0A that was just polled: from a waiting state no step runs anything else. -/
theorem awaitsAtWait_of_step {s t : State} (h : s.awaitsAtWait) (hstep : step s = .next t) : t.awaitsAtWait := by
  obtain ⟨hfaulted, ⟨hout, rfl⟩ | ⟨hfetch, i, hdec, hexec⟩ | ⟨-, e, hdec, rfl⟩⟩ := step_cases hstep
  · intro hawait
    obtain ⟨-, hin, -⟩ := h hawait
    simp [hout] at hin
  · intro hawait
    by_cases hpoll : ∃ x, i = .ldVxK x
    · obtain ⟨x, rfl⟩ := hpoll
      obtain rfl := execLdVxK_awaits hexec hawait
      exact ⟨hfaulted, hfetch, x, hdec⟩
    · have hkept : t.await = s.await :=
        exec_same_of_notMem_writes hexec (await_notMem_writes fun x hi => hpoll ⟨x, hi⟩) nofun
      obtain ⟨-, -, x, hx⟩ := h (hkept ▸ hawait)
      exact absurd ⟨x, Except.ok.inj (hdec.symm.trans hx)⟩ hpoll
  · intro hawait
    obtain ⟨-, -, x, hx⟩ := h hawait
    simp [hdec] at hx

/-! ### The session's invariant (R35) -/

theorem awaitsAtWait_of_await_eq_false {s : State} (h : s.await = false) : s.awaitsAtWait := fun hawait => by
  simp [h] at hawait

/-- An `execute` call steps the machine, or returns the latched fault and leaves it (R208). -/
theorem Session.Inv.of_execute {m : Session} (h : m.Inv) : Session.Inv ⟨m.machine.afterExecute, false⟩ := by
  obtain ⟨hinv, hwait, -⟩ := h
  unfold State.afterExecute
  split
  next t hstep => exact ⟨everyStepKeepsTheInvariant _ t hinv hstep, awaitsAtWait_of_step hwait hstep, nofun⟩
  next => exact ⟨hinv, hwait, nofun⟩
  next => exact ⟨hinv, hwait, nofun⟩

theorem State.hostReset_inv (s : State) : s.hostReset.Inv :=
  ⟨rfl, ⟨by simp [State.reset], fun k => by simp⟩, fun _ => rfl, fun hset => absurd rfl hset⟩

theorem Session.Inv.of_reset (s : State) : Session.Inv ⟨s.hostReset, true⟩ :=
  ⟨s.hostReset_inv, awaitsAtWait_of_await_eq_false rfl, fun _ => rfl⟩

/-- Settles O19: a session starts with a machine that was reset. -/
theorem aSessionStartsWithTheInvariant : Obligations.ASessionStartsWithTheInvariant := .of_reset State.reset

/-- A press writes the keypad alone, of which the invariant does not speak (R173). -/
theorem Session.Inv.of_pressKey {m : Session} (h : m.Inv) (k : Key) :
    Session.Inv ⟨m.machine.pressKey k, m.loadable⟩ := by
  unfold State.pressKey
  split <;> exact h

/-- A load is a move only before the first `execute`, when nothing waits (R231). -/
theorem Session.Inv.of_loadRom {m m' : Session} {bytes : List Byte} (h : m.Inv)
    (hperform : m.perform (.loadRom bytes) = some m') : m'.Inv := by
  obtain ⟨⟨hm, hbound, hrecord⟩, hwait, hloadable⟩ := h
  simp only [Session.perform] at hperform
  split_ifs at hperform with hload
  split at hperform
  next t ht =>
    cases hperform
    unfold State.loadRom at ht
    split_ifs at ht
    cases ht
    exact ⟨⟨Memory.wf_writeBytes hm _ bytes, hbound, hrecord⟩,
      awaitsAtWait_of_await_eq_false (hloadable hload), hloadable⟩
  next =>
    cases hperform
    exact ⟨⟨hm, hbound, hrecord⟩, hwait, hloadable⟩

/-- Settles O18, action by action. -/
theorem everyActionKeepsTheSessionInvariant : Obligations.EveryActionKeepsTheSessionInvariant := by
  intro m m' e h hperform
  cases e with
  | execute => cases hperform; exact h.of_execute
  | timerTick | release k => cases hperform; exact h
  | press k => cases hperform; exact h.of_pressKey k
  | reset => cases hperform; exact .of_reset m.machine
  | loadRom bytes => exact h.of_loadRom hperform

end Sys2Proof.Machine

/-!
Steps and moves of the machine, one or two at a time (spec/30_encoding.md R84; spec/40_control_flow.md;
spec/70_reset_and_hazards.md R232, R237; spec/43_peripheral_io.md R173, R176): what the next step runs, the end of a
run, a call and its return, and the keypad's side of a key event.
-/

namespace Sys2Proof.Machine

/-! ### The instruction at `pc` (R84) -/

/-- Settles O6: the two bytes make the word that is fetched, and what decodes is well-formed. -/
theorem stepRunsTheDecodedInstruction : Obligations.StepRunsTheDecodedInstruction := by
  intro s i hclear hfetch hbytes
  have hdec : decode s.fetchWord = .ok i := decode_of_decodeBytes hbytes
  exact ⟨wf_of_decode hdec, step_of_decode hclear hfetch hdec⟩

theorem State.withFetchWord_word (s : State) (w : Word) : s.withFetchWord 16 w.toNat = s.storeAtPc w := by
  rw [State.withFetchWord, Nat.mod_eq_of_lt w.isLt, BitVec.ofNat_toNat, BitVec.setWidth_eq]

@[simp] theorem State.storeAtPc_pc (s : State) (w : Word) : (s.storeAtPc w).pc = s.pc := rfl
@[simp] theorem State.storeAtPc_fault (s : State) (w : Word) : (s.storeAtPc w).fault = s.fault := rfl

/-- What a word stored at `pc` leaves there: its high byte, then its low byte (R54). -/
theorem State.readByte_storeAtPc {s : State} (hm : Memory.wf s.mem = true) (hfetch : s.pc.toNat + 1 ≤ 0xFFF)
    (w : Word) :
    (s.storeAtPc w).readByte s.pc.toNat = highByte w ∧ (s.storeAtPc w).readByte (s.pc.toNat + 1) = lowByte w := by
  have hr : s.pc.toNat + [highByte w, lowByte w].length ≤ Config.memSize :=
    show s.pc.toNat + 2 ≤ 4096 by omega
  exact ⟨State.readByte_writeBytes_inside hm _ _ hr 0 (by simp),
    State.readByte_writeBytes_inside hm _ _ hr 1 (by simp)⟩

theorem State.fetchWord_storeAtPc {s : State} (hm : Memory.wf s.mem = true) (hfetch : s.pc.toNat + 1 ≤ 0xFFF)
    (w : Word) : (s.storeAtPc w).fetchWord = w := by
  obtain ⟨hhigh, hlow⟩ := State.readByte_storeAtPc hm hfetch w
  rw [State.fetchWord, State.storeAtPc_pc, hhigh, hlow, wordOfBytes_high_low]

/-- Settles O7: the fetch puts the two bytes together again, and the word decodes to its instruction. -/
theorem aWordStoredAtThePcRunsNext : Obligations.AWordStoredAtThePcRunsNext := by
  intro s i hclear hfetch hm hwf
  rw [State.withFetchWord_word]
  obtain ⟨hhigh, hlow⟩ := State.readByte_storeAtPc hm hfetch (encode i)
  have hdec : decode (s.storeAtPc (encode i)).fetchWord = .ok i :=
    (State.fetchWord_storeAtPc hm hfetch (encode i)).symm ▸ decode_encode hwf
  exact ⟨hhigh, hlow, s.writeBytes_onlyChanges _ _,
    step_of_decode (by rwa [State.storeAtPc_fault]) (by rwa [State.storeAtPc_pc]) hdec⟩

/-- Settles O22: memory at the origin reads as zero after reset, and 0x0000 is no instruction (R232). -/
theorem bootWithoutARomFaultsAtTheOrigin : Obligations.BootWithoutARomFaultsAtTheOrigin := by
  have hbyte {a : Nat} (h : 0x200 ≤ a) : State.reset.readByte a = 0 := resetByte_program h
  have hword : State.reset.fetchWord = 0x0000 := by
    rw [State.fetchWord, hbyte (by decide), hbyte (by decide)]
    rfl
  have hdec : decode State.reset.fetchWord = .error (.undefinedOpcode 0x0000) := hword ▸ rfl
  exact ⟨_, step_of_undefined rfl (by decide) hdec, rfl, hword, rfl⟩

/-! ### The end of a run (R237) -/

/-- An ended state in terms of the next step: it runs a jump to `pc` (D30). -/
theorem State.ended_iff {s : State} :
    s.ended = true ↔ s.faulted = false ∧ s.fetchable = true ∧
      ∃ nnn, decode s.fetchWord = .ok (.jpNnn nnn) ∧ zextAddr nnn = s.pc := by
  unfold State.ended
  split
  next nnn hdec => simp [hdec, and_assoc]
  next hother => simpa using fun _ _ nnn hdec => absurd hdec (hother nnn)

/-- Settles O35: the jump writes to `pc` what `pc` was. -/
theorem aJumpToItselfChangesNothing : Obligations.AJumpToItselfChangesNothing := by
  intro s h
  obtain ⟨hfaulted, hfetch, nnn, hdec, htarget⟩ := State.ended_iff.mp h
  rw [step_of_decode (State.fault_kind_eq_none hfaulted) (State.fetchable_iff.mp hfetch) hdec]
  exact congrArg (fun w => Host.Outcome.next (s.setPc w)) htarget

/-- Settles O36, by induction on the number of steps: each answers the state it started from. -/
theorem anEndedRunIsSafeForEver : Obligations.AnEndedRunIsSafeForEver := by
  intro s k h
  obtain ⟨hfaulted, -⟩ := State.ended_iff.mp h
  induction k with
  | zero => exact hfaulted
  | succ k ih => exact ⟨hfaulted, s, aJumpToItselfChangesNothing s h, ih⟩

/-- Settles O50: a poll with no event pending writes to AWAIT what AWAIT was (R215). -/
theorem pollingWhileWaitingChangesNothing : Obligations.PollingWhileWaitingChangesNothing := by
  intro s hwait hawait hnone
  obtain ⟨hfaulted, hfetch, x, hdec⟩ := hwait hawait
  rw [step_of_decode (State.fault_kind_eq_none hfaulted) (State.fetchable_iff.mp hfetch) hdec]
  have hpoll : execLdVxK x s = .next (s.setAwait true) := by
    rw [execLdVxK_of_none x hnone, State.afterKeyEvent_of_none hnone]
  exact hpoll.trans (congrArg (fun b => Host.Outcome.next (s.setAwait b)) hawait.symm)

/-! ### A call and its return (C9) -/

/-- Settles O34: the return pops the cell the call pushed. -/
theorem returnComesBackBehindTheCall : Obligations.ReturnComesBackBehindTheCall := by
  intro nnn s hroom
  have hentry : 0 < ((s.push (s.pc + 2) hroom).setPc (zextAddr nnn)).sp.val := Nat.succ_pos _
  refine ⟨_, _, execCall_of_lt nnn hroom, execRet_of_pos hentry, ?_, ?_, fun k hk => ?_⟩
  · exact (s.cell_push (s.pc + 2) hroom _).trans (if_pos rfl)
  · intro p hp
    by_cases hsp : p = .sp
    · subst hsp
      rfl
    · exact Part.same_trans (s.push_setPc_onlyChanges _ _ hroom p (by simp_all))
        (State.popToPc_onlyChanges _ hentry p (by simp_all))
  · exact (s.cell_push (s.pc + 2) hroom k).trans (if_neg hk)

/-! ### The keypad (R173) -/

theorem State.pressKey_of_up {s : State} {k : Key} (h : s.keyPressed k = false) :
    s.pressKey k = { s with keys := s.keys.set k.val true, keyLatch := some k } := if_neg (by simp [h])

theorem State.pressKey_of_down {s : State} {k : Key} (h : s.keyPressed k = true) : s.pressKey k = s := if_pos h

theorem State.pressKey_onlyChanges (s : State) (k : Key) : OnlyChanges [.keys, .keyLatch] s (s.pressKey k) := by
  unfold State.pressKey
  split
  next => exact .refl _ s
  next =>
    intro p hp
    cases p with
    | keys | keyLatch => simp at hp
    | fb => exact fun _ _ => rfl
    | v | stack | mem => exact fun _ => rfl
    | i | pc | sp | dt | st | await | fault | draws => rfl

theorem State.releaseKey_onlyChanges (s : State) (k : Key) : OnlyChanges [.keys] s (s.releaseKey k) := fun p hp => by
  cases p <;> simp_all [Part.same]

/-- Settles O25: a press of a key that is up posts it, one of a key that is down does nothing, and a release writes the
level alone. -/
theorem theKeypadPostsPressesAndNotReleases : Obligations.TheKeypadPostsPressesAndNotReleases := fun s k =>
  ⟨fun hup => by rw [State.pressKey_of_up hup], fun hdown => by rw [State.pressKey_of_down hdown],
    s.keyPressed_pressKey k, s.pressKey_onlyChanges k, s.keyPressed_releaseKey k, s.releaseKey_onlyChanges k, rfl, rfl,
    s.afterKeyEvent_onlyChanges⟩

/-! ### Random (R176) -/

/-- Settles O47: a draw, one register written with it masked, and the advance. -/
theorem randomIsADrawMaskedByNn : Obligations.RandomIsADrawMaskedByNn := by
  intro x nn s
  refine ⟨toNat_formatXNN 0xC x nn, _, rfl, rfl, fun r => s.afterRandomByte.getV_setV x r _, fun b hb => ?_, rfl,
    ?_⟩
  · rw [State.advance_getV, State.getV_setV_self, BitVec.getLsbD_and, hb, Bool.and_false]
  · exact (s.afterRandomByte_onlyChanges.mono (by simp)).trans
      ((s.afterRandomByte.setV_onlyChanges x _).advance.mono (by simp))

end Sys2Proof.Machine

/-!
Sequences through memory and the display (spec/20_memory.md R61, R62; spec/42_index_memory.md R152 to R155;
spec/43_peripheral_io.md R171, R177). A store is read back by a load and by the next fetch, the font by Fx29's address,
and a draw toggles the pixels of its sprite, so that a second one toggles them back.
-/

namespace Sys2Proof.Machine

/-! ### Memory -/

/-- Settles O38: the address is that of the glyph's first byte, and glyph 15 ends with the font. -/
theorem loadFontAddressPointsAtTheGlyph : Obligations.LoadFontAddressPointsAtTheGlyph := by
  intro x s hfont
  refine ⟨_, rfl, fun r hr => ?_⟩
  have hd := lowNibble_lt (s.getV x)
  have haddr : (glyphAddr (lowNibble (s.getV x))).toNat + r =
      Config.fontBase + (5 * lowNibble (s.getV x) + r) := by
    rw [glyphAddr_toNat hd, Nat.add_assoc]
  exact (congrArg s.readByte haddr).trans (hfont _ (by omega))

theorem effAddr_eq_of_i_eq {s t : State} (hi : t.i = s.i) (k : Nat) : effAddr t k = effAddr s k := by
  rw [effAddr, effAddr, hi]

/-- Settles O42: the load reads the bytes the store put there, and keeps the registers that were not stored. -/
theorem storeThenLoadKeepsTheRegisters : Obligations.StoreThenLoadKeepsTheRegisters := by
  intro x s hm hin
  obtain ⟨-, hstore, -⟩ := storeRegistersStoresTheInclusiveRangeOrFaults x s hm
  obtain ⟨t, hexec, hpc, hstored, -, hframe⟩ := hstore hin
  have hi : t.i = s.i := hframe .i (by decide)
  obtain ⟨-, hload, -⟩ := loadRegistersLoadsTheInclusiveRangeOrFaults x t
  obtain ⟨u, hexec', hpc', hregs, hframe'⟩ := hload (hi.symm ▸ hin)
  have hback (r : Reg) : u.getV r = s.getV r := by
    rw [hregs r, effAddr_eq_of_i_eq hi]
    split
    next hr => exact hstored r hr
    next => exact hframe .v (by decide) r
  refine ⟨t, u, hexec, hexec', ?_, fun p hp => ?_, hframe' .mem (by decide)⟩
  · rw [hpc', hpc, BitVec.add_assoc]
    rfl
  · by_cases hv : p = .v
    · exact hv ▸ hback
    · exact Part.same_trans (hframe p hp) (hframe' p (by simp_all))

/-- Settles O43: the two bytes fetched are two of the bytes stored. -/
theorem aStoreIsSeenByTheNextFetch : Obligations.AStoreIsSeenByTheNextFetch := by
  intro x j k s hm hin hjk hkx haddr
  obtain ⟨-, hstore, -⟩ := storeRegistersStoresTheInclusiveRangeOrFaults x s hm
  obtain ⟨t, hexec, hpc, hstored, -, -⟩ := hstore hin
  have hhigh : t.pc.toNat = effAddr s j.val := by rw [hpc, haddr, effAddr]
  have hlow : t.pc.toNat + 1 = effAddr s k.val := by rw [hhigh, effAddr, effAddr, hjk, Nat.add_assoc]
  refine ⟨t, hexec, ?_⟩
  rw [State.fetchWord, toNat_wordOfBytes, hlow, hhigh, hstored j (by omega), hstored k hkx]

/-! ### Display -/

theorem flagByte_eq_zero_or_one (c : Bool) : flagByte c = 0 ∨ flagByte c = 1 := by
  cases c
  · exact .inl rfl
  · exact .inr rfl

theorem flagByte_eq_one_iff {c : Bool} : flagByte c = 1 ↔ c = true := by
  cases c <;> decide

/-- A draw toggles the pixels of its sprite (R171). -/
theorem drawing_pixel_of_spriteHas {x y : Reg} {n : Nat} {s : State} (hn : n ≤ 15) {qx : Fin Config.fbW}
    {qy : Fin Config.fbH} (h : spriteHas (s.getV x).toNat (s.getV y).toNat n (spriteRow s) qx qy) :
    (drawing x y n s).1.pixel qx qy = !s.pixel qx qy := by
  have hpixel := (fbXorSprite_spec s.fb (s.getV x).toNat (s.getV y).toNat n (spriteRow s) hn).1 qx qy
  rw [← spriteHas_iff_rows, iff_true_right h] at hpixel
  rw [Bool.eq_iff_iff, drawing, hpixel, Bool.not_eq_true', Bool.not_eq_true]
  rfl

/-- A draw leaves every other pixel alone (R171). -/
theorem drawing_pixel_of_not_spriteHas {x y : Reg} {n : Nat} {s : State} {qx : Fin Config.fbW} {qy : Fin Config.fbH}
    (h : ¬ spriteHas (s.getV x).toNat (s.getV y).toNat n (spriteRow s) qx qy) :
    (drawing x y n s).1.pixel qx qy = s.pixel qx qy :=
  fbXorSprite_outside s.fb _ _ n _ qx qy h

/-- What a draw writes: the framebuffer, VF and `pc` (R177). -/
theorem State.draw_onlyChanges (s : State) (f : Framebuffer) (b : Byte) :
    OnlyChanges [.fb, .v, .pc] s ((s.setFb f).setV VF b).advance :=
  ((s.setFb_onlyChanges f).mono (by simp)).trans (((s.setFb f).setV_onlyChanges VF b).advance.mono (by simp))

/-- Settles O45: a range check of `n` bytes from `I`, then the sprite drawn and the collision written to VF. -/
theorem drawTogglesTheSpriteAndReportsTheCollision : Obligations.DrawTogglesTheSpriteAndReportsTheCollision := by
  intro x y n s hn
  refine ⟨?_, fun hin => ?_, fun hpos hout => raises_of_withFault (if_neg ?_)⟩
  · rw [encode, toNat_formatXYN, toNat_ofNat_rows hn]
    rfl
  · have hrange : inRange (effAddr s 0) n = true := (inRange_rows_iff s n).mpr (by omega)
    refine ⟨_, execDrw_of_range x y n hrange, rfl, fun _ _ => drawing_pixel_of_spriteHas hn,
      fun _ _ => drawing_pixel_of_not_spriteHas, ?_, ?_, fun r hr => ?_, s.draw_onlyChanges _ _⟩
    · rw [State.advance_getV, State.getV_setV_self]
      exact flagByte_eq_zero_or_one _
    · rw [State.advance_getV, State.getV_setV_self, flagByte_eq_one_iff]
      exact drawing_collides_iff x y hn s
    · exact ((s.setFb _).getV_setV VF r _).trans (if_neg hr)
  · exact mt (inRange_rows_iff s n).mp (by omega)

/-- Settles O46: the second draw has the first one's sprite and place, so each of its pixels is toggled twice; it
clears those that were clear at first. -/
theorem drawingTwiceRestoresTheScreen : Obligations.DrawingTwiceRestoresTheScreen := by
  intro x y n s hn hx hy hin
  obtain ⟨-, hdraw, -⟩ := drawTogglesTheSpriteAndReportsTheCollision x y n s hn
  obtain ⟨t, hexec, -, htoggled, hkept, -, -, hregs, hframe⟩ := hdraw hin
  have hi : t.i = s.i := hframe .i (by decide)
  have hsprite : spriteRow t = spriteRow s := funext fun r => by
    rw [spriteRow, effAddr_eq_of_i_eq hi]
    exact hframe .mem (by decide) _
  obtain ⟨-, hdraw', -⟩ := drawTogglesTheSpriteAndReportsTheCollision x y n t hn
  obtain ⟨u, hexec', -, htoggled', hkept', -, hcollides, -⟩ := hdraw' (hi.symm ▸ hin)
  rw [hregs x hx, hregs y hy, hsprite] at htoggled' hkept'
  have hrestored (qx qy) : u.pixel qx qy = s.pixel qx qy := by
    by_cases h : spriteHas (s.getV x).toNat (s.getV y).toNat n (spriteRow s) qx qy
    · rw [htoggled' qx qy h, htoggled qx qy h, Bool.not_not]
    · rw [hkept' qx qy h, hkept qx qy h]
  refine ⟨t, u, hexec, hexec', hrestored, hcollides.trans (exists₂_congr fun qx qy => ?_)⟩
  rw [hrestored]
  refine and_congr_left fun hclear => ?_
  by_cases h : spriteHas (s.getV x).toNat (s.getV y).toNat n (spriteRow s) qx qy
  · simp [htoggled qx qy h, hclear, h]
  · simp [hkept qx qy h, hclear, h]

end Sys2Proof.Machine
